-- ==== Sys2Proof/Word.lean ====
section
/-! DEFINITION. The two word types of the core and the spec's plainest arithmetic on them: `trunc_N`, `zext_N`
(00_scope.md R10). Every value is unsigned; there is no sign extension anywhere. -/

namespace Sys2Proof

/-- An 8-bit value: a V register, a timer, a memory cell (R20, R26, R31). -/
abbrev Byte := BitVec 8

/-- A 16-bit value: I, PC, a stack entry, an opcode (R23, R24, R25, R90). -/
abbrev Word := BitVec 16

/-- `trunc_8(n)`: n modulo 2^8 (R10). -/
def trunc8 (n : Nat) : Byte := BitVec.ofNat 8 n

/-- `trunc_16(n)`: n modulo 2^16 (R10). -/
def trunc16 (n : Nat) : Word := BitVec.ofNat 16 n

end Sys2Proof
end

