-- ==== Sys2Proof/Syntax.lean ====
section
/-! DEFINITION. The instructions: one constructor for each of the 34 rows of the opcode map (30_encoding.md R95,
spec/opcode_table.json). An operand's type is its field's range (R91, R93): X and Y are register numbers 0 to 15, N is a
row count 0 to 15, NN is a byte, NNN a 12-bit address. A term of this type is therefore well formed by construction; what
can be ill formed is an opcode word, and WellFormed.lean says which. -/

namespace Sys2Proof

/-- A register number X or Y (R91). -/
abbrev Reg := Fin 16

/-- A 12-bit address NNN (R91). -/
abbrev Addr12 := BitVec 12

/-- The 34 instructions, in the order of the opcode map. -/
inductive Instr where
  /-- `00E0`: clear the framebuffer (R220). -/
  | cls
  /-- `00EE`: return from subroutine (R140). -/
  | ret
  /-- `1NNN`: jump (R141). -/
  | jp (nnn : Addr12)
  /-- `2NNN`: call subroutine (R142). -/
  | call (nnn : Addr12)
  /-- `3XNN`: skip if VX = NN (R143). -/
  | seByte (x : Reg) (nn : Byte)
  /-- `4XNN`: skip if VX ≠ NN (R144). -/
  | sneByte (x : Reg) (nn : Byte)
  /-- `5XY0`: skip if VX = VY (R145). -/
  | seReg (x y : Reg)
  /-- `6XNN`: VX ← NN (R170). -/
  | ldByte (x : Reg) (nn : Byte)
  /-- `7XNN`: VX ← VX + NN, no flag (R171). -/
  | addByte (x : Reg) (nn : Byte)
  /-- `8XY0`: VX ← VY (R172). -/
  | ldReg (x y : Reg)
  /-- `8XY1`: VX ← VX OR VY (R173). -/
  | orReg (x y : Reg)
  /-- `8XY2`: VX ← VX AND VY (R174). -/
  | andReg (x y : Reg)
  /-- `8XY3`: VX ← VX XOR VY (R175). -/
  | xorReg (x y : Reg)
  /-- `8XY4`: VX ← VX + VY, VF ← carry (R176). -/
  | addReg (x y : Reg)
  /-- `8XY5`: VX ← VX - VY, VF ← NOT borrow (R177). -/
  | subReg (x y : Reg)
  /-- `8XY6`: VX ← VY >> 1, VF ← bit 0 of VY (R178). -/
  | shrReg (x y : Reg)
  /-- `8XY7`: VX ← VY - VX, VF ← NOT borrow (R179). -/
  | subnReg (x y : Reg)
  /-- `8XYE`: VX ← VY << 1, VF ← bit 7 of VY (R180). -/
  | shlReg (x y : Reg)
  /-- `9XY0`: skip if VX ≠ VY (R146). -/
  | sneReg (x y : Reg)
  /-- `ANNN`: I ← NNN (R200). -/
  | ldI (nnn : Addr12)
  /-- `BNNN`: PC ← NNN + V0 (R147). -/
  | jpV0 (nnn : Addr12)
  /-- `CXNN`: VX ← random byte AND NN (R181). -/
  | rnd (x : Reg) (nn : Byte)
  /-- `DXYN`: draw N sprite rows at (VX, VY) (R221). -/
  | drw (x y : Reg) (n : Fin 16)
  /-- `EX9E`: skip if key VX is pressed (R240). -/
  | skp (x : Reg)
  /-- `EXA1`: skip if key VX is not pressed (R241). -/
  | sknp (x : Reg)
  /-- `FX07`: VX ← DT (R243). -/
  | ldVxDt (x : Reg)
  /-- `FX0A`: wait for a key, VX ← its number (R242). -/
  | ldVxK (x : Reg)
  /-- `FX15`: DT ← VX (R244). -/
  | ldDtVx (x : Reg)
  /-- `FX18`: ST ← VX (R245). -/
  | ldStVx (x : Reg)
  /-- `FX1E`: I ← I + VX (R201). -/
  | addI (x : Reg)
  /-- `FX29`: I ← address of glyph VX (R202). -/
  | ldF (x : Reg)
  /-- `FX33`: store VX in decimal at I, I+1, I+2 (R203). -/
  | ldB (x : Reg)
  /-- `FX55`: store V0 to VX at I, advance I (R204). -/
  | storeRegs (x : Reg)
  /-- `FX65`: load V0 to VX from I, advance I (R205). -/
  | loadRegs (x : Reg)
deriving DecidableEq, Repr

end Sys2Proof
end

