-- ==== Sys2Proof/WellFormed.lean ====
section
/-! DEFINITION. Which 16-bit opcodes are instructions: the opcode map of 30_encoding.md R95 as a list of rows, each a
mask and a match, and the check that a word matches some row (R96: every other word is illegal). The decoder of
Decode.lean is written apart from this list, by fields; that the two agree is a statement. -/

namespace Sys2Proof

/-- One row of the opcode map: `op` is this row's instruction when `op AND mask = value` (R95). -/
structure OpcodeRow where
  mnemonic : String
  mask : Word
  value : Word
deriving DecidableEq, Repr

/-- Families 0 to 7 of the opcode map (R95). -/
def opcodeRowsLow : List OpcodeRow :=
  [ ⟨"CLS", 0xFFFF, 0x00E0⟩, ⟨"RET", 0xFFFF, 0x00EE⟩, ⟨"JP_addr", 0xF000, 0x1000⟩, ⟨"CALL_addr", 0xF000, 0x2000⟩,
    ⟨"SE_Vx__byte", 0xF000, 0x3000⟩, ⟨"SNE_Vx__byte", 0xF000, 0x4000⟩, ⟨"SE_Vx__Vy", 0xF00F, 0x5000⟩,
    ⟨"LD_Vx__byte", 0xF000, 0x6000⟩, ⟨"ADD_Vx__byte", 0xF000, 0x7000⟩ ]

/-- Family 8 of the opcode map (R95). -/
def opcodeRowsAlu : List OpcodeRow :=
  [ ⟨"LD_Vx__Vy", 0xF00F, 0x8000⟩, ⟨"OR_Vx__Vy", 0xF00F, 0x8001⟩, ⟨"AND_Vx__Vy", 0xF00F, 0x8002⟩,
    ⟨"XOR_Vx__Vy", 0xF00F, 0x8003⟩, ⟨"ADD_Vx__Vy", 0xF00F, 0x8004⟩, ⟨"SUB_Vx__Vy", 0xF00F, 0x8005⟩,
    ⟨"SHR_Vx__Vy", 0xF00F, 0x8006⟩, ⟨"SUBN_Vx__Vy", 0xF00F, 0x8007⟩, ⟨"SHL_Vx__Vy", 0xF00F, 0x800E⟩ ]

/-- Families 9 to F of the opcode map (R95). -/
def opcodeRowsHigh : List OpcodeRow :=
  [ ⟨"SNE_Vx__Vy", 0xF00F, 0x9000⟩, ⟨"LD_I__addr", 0xF000, 0xA000⟩, ⟨"JP_V0__addr", 0xF000, 0xB000⟩,
    ⟨"RND_Vx__byte", 0xF000, 0xC000⟩, ⟨"DRW_Vx__Vy__nibble", 0xF000, 0xD000⟩, ⟨"SKP_Vx", 0xF0FF, 0xE09E⟩,
    ⟨"SKNP_Vx", 0xF0FF, 0xE0A1⟩, ⟨"LD_Vx__DT", 0xF0FF, 0xF007⟩, ⟨"LD_Vx__K", 0xF0FF, 0xF00A⟩,
    ⟨"LD_DT__Vx", 0xF0FF, 0xF015⟩, ⟨"LD_ST__Vx", 0xF0FF, 0xF018⟩, ⟨"ADD_I__Vx", 0xF0FF, 0xF01E⟩,
    ⟨"LD_F__Vx", 0xF0FF, 0xF029⟩, ⟨"LD_B__Vx", 0xF0FF, 0xF033⟩, ⟨"LD__I___Vx", 0xF0FF, 0xF055⟩,
    ⟨"LD_Vx___I", 0xF0FF, 0xF065⟩ ]

/-- The opcode map: 34 rows (R95). -/
def opcodeRows : List OpcodeRow := opcodeRowsLow ++ opcodeRowsAlu ++ opcodeRowsHigh

/-- A word matches a row: `(op & mask) == match` (R95, R124). -/
def OpcodeRow.matchesWord (r : OpcodeRow) (op : Word) : Bool := op &&& r.mask == r.value

/-- A word is well formed when it matches some row; every other word is illegal (R96). -/
def wellFormedWord (op : Word) : Bool := opcodeRows.any (·.matchesWord op)

/-- No word matches both rows (R95: "The masks are pairwise disjoint in what they match"): where both masks test a bit,
the two rows ask for different values of some such bit. -/
def OpcodeRow.disjointFrom (r q : OpcodeRow) : Bool := r.value &&& q.mask != q.value &&& r.mask

end Sys2Proof
end

