-- ==== Sys2Proof/Decode.lean ====
section
/-! DEFINITION. Decoding: the field extraction of 30_encoding.md R91, the two-level dispatch of R94, the byte order of
20_memory.md R66; every illegal word is rejected by the space of R96 it lies in. After the decoder, the encoder, written
from the same map (R95). -/

namespace Sys2Proof

/-- `v[hi:lo]`: the unsigned value of bits hi down to lo of an opcode (R9). -/
def bitsOf (op : Word) (hi lo : Nat) : Nat := op.toNat / 2 ^ lo % 2 ^ (hi - lo + 1)

/-- The decoded tuple of an opcode: the opcode, its family and its operand fields (R91, R92). -/
structure Fields where
  op     : Word
  family : Fin 16
  x      : Reg
  y      : Reg
  n      : Fin 16
  nn     : Byte
  nnn    : Addr12
deriving DecidableEq, Repr

/-- Decode in the sense of R92: total and pure; every 16-bit value has its fields. -/
def fieldsOf (op : Word) : Fields where
  op     := op
  family := Fin.ofNat 16 (bitsOf op 15 12)
  x      := Fin.ofNat 16 (bitsOf op 11 8)
  y      := Fin.ofNat 16 (bitsOf op 7 4)
  n      := Fin.ofNat 16 (bitsOf op 3 0)
  nn     := BitVec.ofNat 8 (bitsOf op 7 0)
  nnn    := BitVec.ofNat 12 (bitsOf op 11 0)

/-- Why a word is no instruction: the spaces of R96, and a byte string shorter than an opcode. -/
inductive IllegalOpcode where
  /-- `0NNN` other than `00E0` and `00EE`. -/
  | unmappedZero
  /-- `5XYN` with N ≠ 0. -/
  | skipEqualNibble
  /-- `8XYN` with N one of 8, 9, A, B, C, D, F. -/
  | unmappedAlu
  /-- `9XYN` with N ≠ 0. -/
  | skipDiffersNibble
  /-- `EXNN` with NN neither 9E nor A1. -/
  | unmappedKey
  /-- `FXNN` with NN none of 07, 0A, 15, 18, 1E, 29, 33, 55, 65. -/
  | unmappedMisc
  /-- Fewer than two bytes were given (R90: a decoder always consumes exactly two). -/
  | truncated
deriving DecidableEq, Repr

/-- What a word decodes to. -/
inductive Decoded where
  | instr (i : Instr)
  | illegal (why : IllegalOpcode)
deriving DecidableEq, Repr

/-- Family 0: the secondary selector is the whole opcode (R94). -/
def decodeZero (op : Word) : Decoded :=
  if op = 0x00E0 then .instr .cls
  else if op = 0x00EE then .instr .ret
  else .illegal .unmappedZero

/-- Family 8: the secondary selector is N (R94). -/
def decodeAlu (f : Fields) : Decoded :=
  match f.n.val with
  | 0x0 => .instr (.ldReg f.x f.y)
  | 0x1 => .instr (.orReg f.x f.y)
  | 0x2 => .instr (.andReg f.x f.y)
  | 0x3 => .instr (.xorReg f.x f.y)
  | 0x4 => .instr (.addReg f.x f.y)
  | 0x5 => .instr (.subReg f.x f.y)
  | 0x6 => .instr (.shrReg f.x f.y)
  | 0x7 => .instr (.subnReg f.x f.y)
  | 0xE => .instr (.shlReg f.x f.y)
  | _   => .illegal .unmappedAlu

/-- Family E: the secondary selector is NN (R94). -/
def decodeKey (f : Fields) : Decoded :=
  match f.nn.toNat with
  | 0x9E => .instr (.skp f.x)
  | 0xA1 => .instr (.sknp f.x)
  | _    => .illegal .unmappedKey

/-- Family F: the secondary selector is NN (R94). -/
def decodeMisc (f : Fields) : Decoded :=
  match f.nn.toNat with
  | 0x07 => .instr (.ldVxDt f.x)
  | 0x0A => .instr (.ldVxK f.x)
  | 0x15 => .instr (.ldDtVx f.x)
  | 0x18 => .instr (.ldStVx f.x)
  | 0x1E => .instr (.addI f.x)
  | 0x29 => .instr (.ldF f.x)
  | 0x33 => .instr (.ldB f.x)
  | 0x55 => .instr (.storeRegs f.x)
  | 0x65 => .instr (.loadRegs f.x)
  | _    => .illegal .unmappedMisc

/-- Select the instruction of an opcode's fields: the family, then the secondary selector; families 5 and 9 also check
their low nibble (R94, R96, R124). -/
def selectInstr (f : Fields) : Decoded :=
  match f.family.val with
  | 0x0 => decodeZero f.op
  | 0x1 => .instr (.jp f.nnn)
  | 0x2 => .instr (.call f.nnn)
  | 0x3 => .instr (.seByte f.x f.nn)
  | 0x4 => .instr (.sneByte f.x f.nn)
  | 0x5 => if f.n = 0 then .instr (.seReg f.x f.y) else .illegal .skipEqualNibble
  | 0x6 => .instr (.ldByte f.x f.nn)
  | 0x7 => .instr (.addByte f.x f.nn)
  | 0x8 => decodeAlu f
  | 0x9 => if f.n = 0 then .instr (.sneReg f.x f.y) else .illegal .skipDiffersNibble
  | 0xA => .instr (.ldI f.nnn)
  | 0xB => .instr (.jpV0 f.nnn)
  | 0xC => .instr (.rnd f.x f.nn)
  | 0xD => .instr (.drw f.x f.y f.n)
  | 0xE => decodeKey f
  | _   => decodeMisc f

/-- The instruction a 16-bit opcode is, or why it is none. -/
def decode (op : Word) : Decoded := selectInstr (fieldsOf op)

/-- An opcode from its two bytes, most significant first: `hi * 256 + lo` (R66, R90). -/
def opcodeOfBytes (hi lo : Byte) : Word := trunc16 (hi.toNat * 256 + lo.toNat)

/-- Decode the first two bytes of a byte string (R90); total on any bytes. -/
def decodeBytes : List Byte → Decoded
  | hi :: lo :: _ => decode (opcodeOfBytes hi lo)
  | _             => .illegal .truncated

/-- The more significant byte of an opcode, the one at the lower address (R66). -/
def highByte (op : Word) : Byte := trunc8 (op.toNat / 256)

/-- The less significant byte of an opcode, the one at the higher address (R66). -/
def lowByte (op : Word) : Byte := trunc8 op.toNat

/-- The host's question: the instruction of a word whose bits are numbered as spec/opcode_table.json numbers them, the
bits above nbits taken as zero. The word is laid out as two bytes, most significant first, and decoded. -/
def decodeTableWord (nbits w : Nat) : Option Instr :=
  let op := trunc16 (w % 2 ^ nbits)
  match decodeBytes [highByte op, lowByte op] with
  | .instr i   => some i
  | .illegal _ => none

/-! ## The encoder -/

/-- An opcode from four nibbles, F, X, Y, N from the most significant down (R91). -/
def opcodeXYN (f x y n : Nat) : Word := trunc16 (f * 4096 + x * 256 + y * 16 + n)

/-- An opcode from F, X and NN (R91). -/
def opcodeXNN (f x nn : Nat) : Word := trunc16 (f * 4096 + x * 256 + nn)

/-- An opcode from F and NNN (R91). -/
def opcodeNNN (f nnn : Nat) : Word := trunc16 (f * 4096 + nnn)

/-- The opcode of an instruction (R95). -/
def encode : Instr → Word
  | .cls           => 0x00E0
  | .ret           => 0x00EE
  | .jp nnn        => opcodeNNN 0x1 nnn.toNat
  | .call nnn      => opcodeNNN 0x2 nnn.toNat
  | .seByte x nn   => opcodeXNN 0x3 x nn.toNat
  | .sneByte x nn  => opcodeXNN 0x4 x nn.toNat
  | .seReg x y     => opcodeXYN 0x5 x y 0x0
  | .ldByte x nn   => opcodeXNN 0x6 x nn.toNat
  | .addByte x nn  => opcodeXNN 0x7 x nn.toNat
  | .ldReg x y     => opcodeXYN 0x8 x y 0x0
  | .orReg x y     => opcodeXYN 0x8 x y 0x1
  | .andReg x y    => opcodeXYN 0x8 x y 0x2
  | .xorReg x y    => opcodeXYN 0x8 x y 0x3
  | .addReg x y    => opcodeXYN 0x8 x y 0x4
  | .subReg x y    => opcodeXYN 0x8 x y 0x5
  | .shrReg x y    => opcodeXYN 0x8 x y 0x6
  | .subnReg x y   => opcodeXYN 0x8 x y 0x7
  | .shlReg x y    => opcodeXYN 0x8 x y 0xE
  | .sneReg x y    => opcodeXYN 0x9 x y 0x0
  | .ldI nnn       => opcodeNNN 0xA nnn.toNat
  | .jpV0 nnn      => opcodeNNN 0xB nnn.toNat
  | .rnd x nn      => opcodeXNN 0xC x nn.toNat
  | .drw x y n     => opcodeXYN 0xD x y n
  | .skp x         => opcodeXNN 0xE x 0x9E
  | .sknp x        => opcodeXNN 0xE x 0xA1
  | .ldVxDt x      => opcodeXNN 0xF x 0x07
  | .ldVxK x       => opcodeXNN 0xF x 0x0A
  | .ldDtVx x      => opcodeXNN 0xF x 0x15
  | .ldStVx x      => opcodeXNN 0xF x 0x18
  | .addI x        => opcodeXNN 0xF x 0x1E
  | .ldF x         => opcodeXNN 0xF x 0x29
  | .ldB x         => opcodeXNN 0xF x 0x33
  | .storeRegs x   => opcodeXNN 0xF x 0x55
  | .loadRegs x    => opcodeXNN 0xF x 0x65

/-- The two bytes of an instruction as memory holds them, most significant first (R66, R90). -/
def encodeBytes (i : Instr) : List Byte := [highByte (encode i), lowByte (encode i)]

end Sys2Proof
end

