-- ==== Sys2Proof/Config.lean ====
section
/-! DEFINITION. The implementation parameters of 00_scope.md R7 and the free values. A parameter whose value the spec
gives is a number; a parameter the spec leaves OPEN, and the random byte of CXNN, are opaque constants: no proof can see
what they are, so every claim holds whatever they are. -/

namespace Sys2Proof.Config

/-- `MEM_SIZE`, in bytes (R7, R60). -/
abbrev memSize : Nat := 4096

/-- `PROGRAM_START`: the reset value of PC and the place a program is loaded (R7, R34, R302). -/
abbrev programStart : Nat := 0x200

/-- `STACK_CAPACITY`, in entries (R7; the spec's decision D23, log entry 6). -/
abbrev stackCapacity : Nat := 16

/-- `SCREEN_W`, in pixels (R7). -/
abbrev screenW : Nat := 64

/-- `SCREEN_H`, in pixels (R7). -/
abbrev screenH : Nat := 32

/-- `KEY_COUNT` (R7). -/
abbrev keyCount : Nat := 16

/-- `MAX_ROM` = `MEM_SIZE - PROGRAM_START`, in bytes (R7, R302). -/
abbrev maxRom : Nat := memSize - programStart

/-- `FONT_PRESENT`, OPEN (R7, D22; log entry 3). -/
opaque openFontPresent : Bool

/-- The number `FONT_BASE` is made from, OPEN (R7, D20; log entry 3). `Machine.fontBase` fits it to R7's constraint. -/
opaque openFontBase : Nat

/-- The number `GLYPH_STRIDE` is made from, OPEN (R7, D21; log entry 3). -/
opaque openGlyphStride : Nat

/-- `FONT_DATA`, byte k counted from `FONT_BASE`, OPEN (R7, D22; log entry 3). -/
opaque openFontData : Nat → Byte

/-- `Rand8()`, the k-th draw since power-on: a FREE VALUE (R181, D25; log entry 2). Nothing constrains it. -/
opaque randByte : Nat → Byte

end Sys2Proof.Config
end

