-- ==== Sys2Proof/Machine/State.lean ====
section
/-! DEFINITION. The state of the core (10_state.md R20 to R33): every element the spec gives it, as plain data, and its
reset value (R34). Two fields are the model's own, not the spec's: `outcome`, where a step leaves the typed result the
spec has it return to the host (log entry 1), and `draws`, the counter of the free random bytes (log entry 2). -/

namespace Sys2Proof.Machine

/-- Memory: the cells that differ from what reset leaves there, by rising address (R31; the canonical form is
`Memory.wf`). -/
abbrev Memory := List Host.Cell

/-- The framebuffer: 32 rows from the top, each a word of 64 pixels. Column x of a row is bit x of its word (R28). -/
abbrev Framebuffer := Vector (BitVec 64) 32

/-- The faults of 60_exceptions.md R260. None of them ends a run: each is TAKEN, that is, the step answers a next state,
the one the spec gives, and that state's `outcome` field names the fault (R125, R129, R268). So no meaning and no step
answers `Host.Outcome.fault`; a claim that a run meets no fault is a claim about `outcome`. -/
inductive Fault where
  /-- UNKNOWN_OPCODE, code 1: taken by the step when the fetched word is no instruction (R96, R261). Safe: the spec's own
  effect, every element but PC unchanged. -/
  | unknownOpcode
  /-- STACK_OVERFLOW, code 2: taken by 2NNN when SP = 16 (R142, R262). Safe: the spec's own effect. -/
  | stackOverflow
  /-- STACK_UNDERFLOW, code 3: taken by 00EE when SP = 0 (R140, R263). Safe: the spec's own effect. -/
  | stackUnderflow
  /-- PC_OVERFLOW, code 4: taken by the post-execute check when a completed instruction left PC at or above 0x1000
  (R126, R264). Safe: the spec's own effect, PC back at 0x200. -/
  | pcOverflow
  /-- BOUNDS_FAULT, code 5: taken by the fetch, by DXYN, FX33, FX55, FX65 for an address at or above 0x1000, and by EX9E,
  EXA1 for a key number of 16 or more (R265). Safe: the spec's own effect, nothing but PC changes. -/
  | boundsFault
deriving DecidableEq, Repr

/-- Why a step has no meaning. -/
inductive Refusal where
  /-- An instruction the model gives no meaning, by its mnemonic. Safe. No arm of `exec` answers it. -/
  | notModelled (mnemonic : String)
deriving DecidableEq, Repr

/-- The state of the core. -/
structure State where
  /-- V0 to VF, the general registers (R20); VF, number 15, is also written as a flag (R21). -/
  v       : Vector Byte 16
  /-- I, the index register (R23). -/
  i       : Word
  /-- PC, the program counter, a byte address (R24). -/
  pc      : Word
  /-- SP, the number of stack entries in use, 0 to 16 (R25). -/
  sp      : Fin 17
  /-- STACK, the 16 return addresses (R25). -/
  stack   : Vector Word 16
  /-- DT, the delay timer (R26). -/
  dt      : Byte
  /-- ST, the sound timer (R27). -/
  st      : Byte
  /-- FB, the framebuffer (R28). -/
  fb      : Framebuffer
  /-- RENDER, the render-needed flag (R29). -/
  render  : Bool
  /-- KEYS, the key latch, true = pressed (R30). -/
  keys    : Vector Bool 16
  /-- MEM, the 4096 bytes of memory (R31). -/
  mem     : Memory
  /-- The model's own: the result of the last executed step, `none` for OK (R260; log entry 1). -/
  outcome : Option Fault
  /-- The model's own: how many random bytes have been drawn (R181; log entry 2). -/
  draws   : Nat
deriving DecidableEq, Repr

/-- The state right after reset (R34, R300): PC at 0x200, memory as reset leaves it, everything else zero or false. -/
def State.reset : State where
  v       := Vector.replicate 16 0
  i       := 0
  pc      := 0x200
  sp      := 0
  stack   := Vector.replicate 16 0
  dt      := 0
  st      := 0
  fb      := Vector.replicate 32 0
  render  := false
  keys    := Vector.replicate 16 false
  mem     := []
  outcome := none
  draws   := 0

end Sys2Proof.Machine
end

