-- ==== Sys2Proof/Machine/Ops.lean ====
section
/-! DEFINITION. The shared operations: memory and the bounds check, the framebuffer, fetch, completing an instruction,
taking a fault, the post-execute check, the timer countdown. -/

namespace Sys2Proof.Machine

/-- What a meaning and a step answer. -/
abbrev Result := Host.Outcome State Fault Refusal

/-! ## The font parameters (00_scope.md R7; log entry 3) -/

/-- `FONT_PRESENT`. -/
def fontPresent : Bool := Config.openFontPresent

/-- `GLYPH_STRIDE`. With the glyphs present it is at most 32, so that sixteen of them fit below 0x200 (R7); every number
up to 32 is a possible value. Without them it is any number. -/
def glyphStride : Nat := if fontPresent then Config.openGlyphStride % 33 else Config.openGlyphStride

/-- `FONT_BASE`. With the glyphs present, `FONT_BASE + 16 * GLYPH_STRIDE ≤ 0x200` (R7), and every number that meets this
is a possible value. Without them it is any number. -/
def fontBase : Nat :=
  if fontPresent then Config.openFontBase % (Config.programStart - 16 * glyphStride + 1) else Config.openFontBase

/-- `FONT_DATA`, byte k: glyph g is bytes `g * GLYPH_STRIDE` onward (R301). -/
def fontData (k : Nat) : Byte := Config.openFontData k

/-- The address of glyph g for a font at `base` with glyphs of `stride` bytes (R202: no masking of g, 16-bit wrap). -/
def glyphAddress (base stride g : Nat) : Word := trunc16 (base + g * stride)

/-! ## Memory -/

/-- What reset leaves at an address, and so what an address that no cell lists reads as (R34, R64, R69, R301): the font
where there is one, below 0x200, and zero everywhere else. -/
def resetByte (a : Nat) : Byte :=
  if Config.programStart ≤ a then 0
  else if fontPresent && decide (fontBase ≤ a) && decide (a < fontBase + 16 * glyphStride) then fontData (a - fontBase)
  else 0

/-- The byte at an address. Instructions check the address first (R61, R63). -/
def Memory.read : Memory → Nat → Byte
  | [], a => resetByte a
  | (k, c) :: rest, a => if k = a then c else Memory.read rest a

/-- A cell in front of the cells above it, left out where it holds what reset leaves there. -/
def Memory.cons (a : Nat) (b : Byte) (rest : Memory) : Memory := if b = resetByte a then rest else (a, b) :: rest

/-- Put a byte at an address, keeping the addresses rising. -/
def Memory.insert : Memory → Nat → Byte → Memory
  | [], a, b => Memory.cons a b []
  | (k, c) :: rest, a, b =>
    if a < k then Memory.cons a b ((k, c) :: rest)
    else if a = k then Memory.cons a b rest
    else (k, c) :: Memory.insert rest a b

/-- `MEM[a] ← b`. An address at or above 0x1000 names no byte and nothing is written (R62). -/
def Memory.write (m : Memory) (a : Nat) (b : Byte) : Memory :=
  if a < Config.memSize then Memory.insert m a b else m

/-- Every listed address is above `low`, inside memory and rising, and its byte differs from what reset leaves there. -/
def Memory.wfAbove : Nat → Memory → Bool
  | _, [] => true
  | low, (k, c) :: rest =>
    decide (low ≤ k) && decide (k < Config.memSize) && decide (c ≠ resetByte k) && Memory.wfAbove (k + 1) rest

/-- The canonical form: equal memories are equal lists. -/
def Memory.wf (m : Memory) : Bool := Memory.wfAbove 0 m

/-- Write a run of cells, first to last. -/
def Memory.writeAll (m : Memory) (cells : List (Nat × Byte)) : Memory :=
  cells.foldl (fun m c => Memory.write m c.1 c.2) m

/-- Write bytes at consecutive rising addresses from `a` (R302: a program is copied verbatim). -/
def Memory.writeBytes : Memory → Nat → List Byte → Memory
  | m, _, [] => m
  | m, a, b :: rest => Memory.writeBytes (Memory.write m a b) (a + 1) rest

/-- Every address an instruction will access names a byte (R61, R63). Addresses are unbounded numbers, never wrapped
before this check. -/
def withinMemory (addrs : List Nat) : Bool := addrs.all fun a => decide (a < Config.memSize)

/-! ## The framebuffer -/

/-- `FB[x, y]`: the pixel at column x, row y, both from the top left (R28). -/
def pixelAt (fb : Framebuffer) (x y : Nat) : Bool := if h : y < 32 then fb[y].getLsbD x else false

/-- `FB[x, y] ← FB[x, y] ^ 1` (R221). -/
def flipPixel (fb : Framebuffer) (x y : Nat) : Framebuffer :=
  if h : y < 32 then fb.set y (fb[y] ^^^ BitVec.twoPow 64 x) else fb

/-- `FB[x, y] ← b` (R278). -/
def setPixel (fb : Framebuffer) (x y : Nat) (b : Bool) : Framebuffer :=
  if pixelAt fb x y = b then fb else flipPixel fb x y

/-! ## Fetch -/

/-- Both bytes of the opcode at PC lie in memory (R122). -/
def canFetch (s : State) : Bool := decide (s.pc.toNat + 1 < Config.memSize)

/-- The opcode at PC: `MEM[PC] * 256 + MEM[PC + 1]` (R66, R121). PC may be odd. -/
def fetchWord (s : State) : Word :=
  opcodeOfBytes (Memory.read s.mem s.pc.toNat) (Memory.read s.mem (s.pc.toNat + 1))

/-- `PC ← trunc_16(PC + 2)` (R121). -/
def advancePc (s : State) : State := { s with pc := s.pc + 2 }

/-! ## Ending an instruction -/

/-- The instruction completed: its outcome is OK (R120, R127). -/
def complete (s : State) : Result := .next { s with outcome := none }

/-- TAKING A FAULT (R125, R267). The spec's description of it, whole: no state is saved, no mode or mask changes, nothing
is pushed, control goes to no vector, and every element keeps the value it had right after fetch, PC = A + 2 among them;
the fault is returned to the host. So the state is the one the instruction began with and `outcome` names the fault.
There is nothing to return from and no instruction that would (R268). -/
def takeFault (f : Fault) (s : State) : State := { s with outcome := some f }

/-- Execute raises a fault: the instruction ends with the fault taken and none of its effect (R12, R125). -/
def raise (f : Fault) (s : State) : Result := .next (takeFault f s)

/-- The post-execute check (R126, R127): PC at or above 0x1000 goes back to 0x200, and nothing else changes; the outcome
is PC_OVERFLOW if the instruction completed, else the instruction's own fault. -/
def postCheck (s : State) : State :=
  if Config.memSize ≤ s.pc.toNat then
    { s with pc := trunc16 Config.programStart, outcome := s.outcome.or (some .pcOverflow) }
  else s

/-- The post-execute check after an instruction's result. -/
def afterExecute : Result → Result
  | .next s    => .next (postCheck s)
  | .fault f   => .fault f
  | .refused r => .refused r

/-! ## The timers -/

/-- A timer after one tick: one less, never below zero (R271). -/
def countDown (t : Byte) : Byte := if t = 0 then 0 else t - 1

/-- `TICK`: both timers count down, and nothing else changes (R271). -/
def tickTimers (s : State) : State := { s with dt := countDown s.dt, st := countDown s.st }

end Sys2Proof.Machine
end

