-- ==== Sys2Proof/Machine/Operands.lean ====
section
/-! DEFINITION. The operand forms (30_encoding.md R93): a V register, an immediate zero-extended, I, the address `I + k`,
a key of the latch, PC as a jump target or moved by a skip. -/

namespace Sys2Proof.Machine

/-- `V[x]` (R20). -/
def readV (x : Reg) (s : State) : Byte := s.v[x.val]

/-- `V[x] ← b` (R20). -/
def writeV (x : Reg) (b : Byte) (s : State) : State := { s with v := s.v.set x.val b }

/-- `I ← trunc_16(n)` (R23). -/
def writeI (n : Nat) (s : State) : State := { s with i := trunc16 n }

/-- The effective address `I + k`, an unbounded number (R61). -/
def dataAddr (s : State) (k : Nat) : Nat := s.i.toNat + k

/-- The addresses `I + k` for every k of a list (R67). -/
def dataAddrs (s : State) (ks : List Nat) : List Nat := ks.map (dataAddr s)

/-- `PC ← trunc_16(n)` (R24). -/
def jumpTo (n : Nat) (s : State) : State := { s with pc := trunc16 n }

/-- Skip the next opcode, two bytes, when the condition holds (R24, R143). -/
def skipIf (c : Bool) (s : State) : State := { s with pc := if c then s.pc + 2 else s.pc }

/-- `KEYS[k]` (R30); numbers of 16 and above name no key and are checked first (R246). -/
def keyPressed (s : State) (k : Nat) : Bool := if h : k < 16 then s.keys[k] else false

/-- The lowest pressed key: scanned in increasing order, first match wins (R242). -/
def firstPressedKey (s : State) : Option Nat := (List.range 16).find? (keyPressed s)

/-- The register numbers 0 to X, lowest first (R93, R204, R205). -/
def blockRegs (x : Reg) : List Reg := (List.finRange 16).filter fun k => decide (k ≤ x)

/-- The cells FX55 writes: V[k] at `I + k`, lowest first (R204). -/
def blockCells (x : Reg) (s : State) : List (Nat × Byte) := (blockRegs x).map fun k => (dataAddr s k.val, readV k s)

/-- `V[k] ← MEM[I + k]` for every k of a list, first to last, with I and memory as `s` has them (R205). -/
def loadV (s : State) (ks : List Reg) : State :=
  ks.foldl (fun t k => writeV k (Memory.read s.mem (dataAddr s k.val)) t) s

end Sys2Proof.Machine
end

