-- ==== Sys2Proof/Machine/Flags.lean ====
section
/-! DEFINITION. The values VF takes as a flag (10_state.md R21, R22; 42_alu.md R184), and writing it last (R185). Each is
computed on natural numbers. -/

namespace Sys2Proof.Machine

/-- Register VF (R21). -/
def regF : Reg := 15

/-- A flag as VF holds it: 1 or 0. -/
def flagByte (c : Bool) : Byte := if c then 1 else 0

/-- The carry of 8XY4: the unbounded sum exceeds 255 (R176, R184). -/
def carryOut (a b : Byte) : Bool := decide (a.toNat + b.toNat > 255)

/-- NOT borrow of 8XY5 and 8XY7: the minuend is at least the subtrahend (R177, R179, R184). -/
def notBorrow (minuend subtrahend : Byte) : Bool := decide (subtrahend.toNat ≤ minuend.toNat)

/-- The bit 8XY6 shifts out: bit 0 (R178). -/
def shiftedOutRight (b : Byte) : Bool := decide (b.toNat % 2 = 1)

/-- The bit 8XYE shifts out: bit 7 (R180). -/
def shiftedOutLeft (b : Byte) : Bool := decide (b.toNat / 128 % 2 = 1)

/-- `V[F] ← flag`. -/
def writeFlag (c : Bool) (s : State) : State := writeV regF (flagByte c) s

/-- VX, then VF: the flag is the last write, so it stays where X = F (R185). -/
def writeResultAndFlag (x : Reg) (value : Byte) (flag : Bool) (s : State) : State :=
  writeFlag flag (writeV x value s)

end Sys2Proof.Machine
end

