-- ==== Sys2Proof/Machine/Alu.lean ====
section
/-! DEFINITION. Register loads and the ALU (42_alu.md R170 to R185): operands are read, then VX is written, then VF where
the instruction has a flag (R185). -/

namespace Sys2Proof.Machine

/-- `6XNN` (R170). -/
def execLdByte (x : Reg) (nn : Byte) (s : State) : Result := complete (writeV x nn s)

/-- `7XNN` (R171): wraps, no flag. -/
def execAddByte (x : Reg) (nn : Byte) (s : State) : Result :=
  complete (writeV x (trunc8 ((readV x s).toNat + nn.toNat)) s)

/-- `8XY0` (R172). -/
def execLdReg (x y : Reg) (s : State) : Result := complete (writeV x (readV y s) s)

/-- `8XY1` (R173): no flag (D8, log entry 12). -/
def execOrReg (x y : Reg) (s : State) : Result := complete (writeV x (readV x s ||| readV y s) s)

/-- `8XY2` (R174): no flag (D8). -/
def execAndReg (x y : Reg) (s : State) : Result := complete (writeV x (readV x s &&& readV y s) s)

/-- `8XY3` (R175): no flag (D8). -/
def execXorReg (x y : Reg) (s : State) : Result := complete (writeV x (readV x s ^^^ readV y s) s)

/-- `8XY4` (R176). -/
def execAddReg (x y : Reg) (s : State) : Result :=
  let a := readV x s
  let b := readV y s
  complete (writeResultAndFlag x (trunc8 (a.toNat + b.toNat)) (carryOut a b) s)

/-- `8XY5` (R177): VX - VY. -/
def execSubReg (x y : Reg) (s : State) : Result :=
  let a := readV x s
  let b := readV y s
  complete (writeResultAndFlag x (trunc8 (a.toNat + 256 - b.toNat)) (notBorrow a b) s)

/-- `8XY6` (R178): the source is VY (D24, log entry 23). -/
def execShrReg (x y : Reg) (s : State) : Result :=
  let b := readV y s
  complete (writeResultAndFlag x (trunc8 (b.toNat / 2)) (shiftedOutRight b) s)

/-- `8XY7` (R179): VY - VX. -/
def execSubnReg (x y : Reg) (s : State) : Result :=
  let a := readV x s
  let b := readV y s
  complete (writeResultAndFlag x (trunc8 (b.toNat + 256 - a.toNat)) (notBorrow b a) s)

/-- `8XYE` (R180): the source is VY (D24). -/
def execShlReg (x y : Reg) (s : State) : Result :=
  let b := readV y s
  complete (writeResultAndFlag x (trunc8 (b.toNat * 2)) (shiftedOutLeft b) s)

/-- `Rand8()` (R181): the next free byte; the counter moves on so that the next draw is fresh (log entry 2). -/
def drawByte (s : State) : Byte × State := (Config.randByte s.draws, { s with draws := s.draws + 1 })

/-- `CXNN` (R181). -/
def execRnd (x : Reg) (nn : Byte) (s : State) : Result :=
  complete (writeV x ((drawByte s).1 &&& nn) (drawByte s).2)

end Sys2Proof.Machine
end

