-- ==== Sys2Proof/Machine/Display.lean ====
section
/-! DEFINITION. The framebuffer unit (44_display.md R220 to R223). -/

namespace Sys2Proof.Machine

/-- `00E0` (R220). -/
def execCls (s : State) : Result := complete { s with fb := Vector.replicate 32 0, render := true }

/-- The origin column of a sprite: VX modulo 64; the origin wraps (R221). -/
def originX (x : Reg) (s : State) : Nat := (readV x s).toNat % Config.screenW

/-- The origin row of a sprite: VY modulo 32 (R221). -/
def originY (y : Reg) (s : State) : Nat := (readV y s).toNat % Config.screenH

/-- The sprite rows that are drawn: rows past the bottom are clipped and their bytes are not read (R221, D10). -/
def drawnRows (y0 n : Nat) : List Nat := (List.range n).filter fun r => decide (y0 + r < Config.screenH)

/-- The pixels of one sprite byte at origin column x0: bit 7 is column x0, bit 0 column x0 + 7 (R222); columns past the
right edge are clipped (R221). -/
def rowPixels (x0 py : Nat) (b : Byte) : List (Nat × Nat) :=
  ((List.range 8).filter fun c => decide (x0 + c < Config.screenW) && b.getLsbD (7 - c)).map fun c => (x0 + c, py)

/-- The pixels a sprite toggles, row by row, left to right (R221). -/
def spritePixels (s : State) (x0 y0 n : Nat) : List (Nat × Nat) :=
  (drawnRows y0 n).flatMap fun r => rowPixels x0 (y0 + r) (Memory.read s.mem (dataAddr s r))

/-- Toggle one pixel; it collides when it was 1 (R221). -/
def xorPixel (acc : Framebuffer × Bool) (p : Nat × Nat) : Framebuffer × Bool :=
  (flipPixel acc.1 p.1 p.2, acc.2 || pixelAt acc.1 p.1 p.2)

/-- `DXYN` (R221): the origin is read before VF is written (D9); RENDER is set even when no pixel changes. -/
def execDrw (x y : Reg) (n : Fin 16) (s : State) : Result :=
  let x0 := originX x s
  let y0 := originY y s
  if withinMemory (dataAddrs s (drawnRows y0 n.val)) then
    let drawn := (spritePixels s x0 y0 n.val).foldl xorPixel (s.fb, false)
    complete (writeFlag drawn.2 { s with fb := drawn.1, render := true })
  else raise .boundsFault s

end Sys2Proof.Machine
end

