-- ==== Sys2Proof/Machine/Flow.lean ====
section
/-! DEFINITION. Control transfer and skips (41_flow.md R140 to R147). An instruction is entered after its fetch, so the
PC of the state it is given is already A + 2 (R24, R121; log entry 29). -/

namespace Sys2Proof.Machine

/-- `00EE` (R140): pop the return address; StackUnderflow when SP = 0. The popped entry is not cleared (D14). -/
def execRet (s : State) : Result :=
  if s.sp.val = 0 then raise .stackUnderflow s
  else complete { s with sp := ⟨s.sp.val - 1, by omega⟩, pc := s.stack[s.sp.val - 1]'(by omega) }

/-- `1NNN` (R141). -/
def execJp (nnn : Addr12) (s : State) : Result := complete (jumpTo nnn.toNat s)

/-- `2NNN` (R142): push PC, the address after the call; StackOverflow when SP = 16. -/
def execCall (nnn : Addr12) (s : State) : Result :=
  if h : s.sp.val < Config.stackCapacity then
    complete (jumpTo nnn.toNat
      { s with stack := s.stack.set s.sp.val s.pc, sp := ⟨s.sp.val + 1, by simp [Config.stackCapacity] at h; omega⟩ })
  else raise .stackOverflow s

/-- `3XNN` (R143). -/
def execSeByte (x : Reg) (nn : Byte) (s : State) : Result := complete (skipIf (readV x s == nn) s)

/-- `4XNN` (R144). -/
def execSneByte (x : Reg) (nn : Byte) (s : State) : Result := complete (skipIf (readV x s != nn) s)

/-- `5XY0` (R145). -/
def execSeReg (x y : Reg) (s : State) : Result := complete (skipIf (readV x s == readV y s) s)

/-- `9XY0` (R146). -/
def execSneReg (x y : Reg) (s : State) : Result := complete (skipIf (readV x s != readV y s) s)

/-- `BNNN` (R147): the register is V0, whatever bits 11:8 are. -/
def execJpV0 (nnn : Addr12) (s : State) : Result := complete (jumpTo (nnn.toNat + (readV 0 s).toNat) s)

end Sys2Proof.Machine
end

