-- ==== Sys2Proof/Machine/Index.lean ====
section
/-! DEFINITION. The index register and the memory transfers (43_index_memory.md R200 to R205). Every address is checked
before anything is written (R63). -/

namespace Sys2Proof.Machine

/-- `ANNN` (R200). -/
def execLdI (nnn : Addr12) (s : State) : Result := complete (writeI nnn.toNat s)

/-- `FX1E` (R201): modulo 2^16, no flag. -/
def execAddI (x : Reg) (s : State) : Result := complete (writeI (s.i.toNat + (readV x s).toNat) s)

/-- `FX29` (R202): no masking of VX (D28, log entry 25). -/
def execLdF (x : Reg) (s : State) : Result :=
  complete { s with i := glyphAddress fontBase glyphStride (readV x s).toNat }

/-- The decimal digits of a byte: hundreds, tens, ones (R203). -/
def bcdDigits (v : Byte) : List Byte := [trunc8 (v.toNat / 100), trunc8 (v.toNat / 10 % 10), trunc8 (v.toNat % 10)]

/-- `FX33` (R203): I is not changed. -/
def execLdB (x : Reg) (s : State) : Result :=
  if withinMemory (dataAddrs s [0, 1, 2]) then
    complete { s with mem := Memory.writeAll s.mem ((dataAddrs s [0, 1, 2]).zip (bcdDigits (readV x s))) }
  else raise .boundsFault s

/-- `FX55` (R204): I is advanced past the last byte. -/
def execStoreRegs (x : Reg) (s : State) : Result :=
  if withinMemory (dataAddrs s ((blockRegs x).map (·.val))) then
    complete (writeI (s.i.toNat + x.val + 1) { s with mem := Memory.writeAll s.mem (blockCells x s) })
  else raise .boundsFault s

/-- `FX65` (R205): I is advanced past the last byte. -/
def execLoadRegs (x : Reg) (s : State) : Result :=
  if withinMemory (dataAddrs s ((blockRegs x).map (·.val))) then
    complete (writeI (s.i.toNat + x.val + 1) (loadV s (blockRegs x)))
  else raise .boundsFault s

end Sys2Proof.Machine
end

