-- ==== Sys2Proof/Machine/KeysTimers.lean ====
section
/-! DEFINITION. Key queries and timer access (45_keys_timers.md R240 to R246). -/

namespace Sys2Proof.Machine

/-- `EX9E` (R240); a key number of 16 or more is a bounds fault (R246). -/
def execSkp (x : Reg) (s : State) : Result :=
  if (readV x s).toNat < Config.keyCount then complete (skipIf (keyPressed s (readV x s).toNat) s)
  else raise .boundsFault s

/-- `EXA1` (R241); a key number of 16 or more is a bounds fault (R246). -/
def execSknp (x : Reg) (s : State) : Result :=
  if (readV x s).toNat < Config.keyCount then complete (skipIf (!keyPressed s (readV x s).toNat) s)
  else raise .boundsFault s

/-- `FX0A` (R242): with no key pressed PC goes back to A, so that the next step fetches the same instruction. -/
def execLdVxK (x : Reg) (s : State) : Result :=
  match firstPressedKey s with
  | some k => complete (writeV x (trunc8 k) s)
  | none   => complete { s with pc := s.pc - 2 }

/-- `FX07` (R243). -/
def execLdVxDt (x : Reg) (s : State) : Result := complete (writeV x s.dt s)

/-- `FX15` (R244). -/
def execLdDtVx (x : Reg) (s : State) : Result := complete { s with dt := readV x s }

/-- `FX18` (R245). -/
def execLdStVx (x : Reg) (s : State) : Result := complete { s with st := readV x s }

end Sys2Proof.Machine
end

