-- ==== Sys2Proof/Machine/Cycle.lean ====
section
/-! DEFINITION. The parts of the instruction cycle around Execute (40_cycle.md R123, R124). -/

namespace Sys2Proof.Machine

/-- Decode and execute one opcode on the state right after its fetch (R123, R124): a word that is no instruction raises
UnknownOpcode (R96). -/
def executeWord (op : Word) (s : State) : Host.Outcome State Fault Refusal :=
  match decode op with
  | .instr i   => exec i s
  | .illegal _ => raise .unknownOpcode s

end Sys2Proof.Machine
end

