-- ==== Sys2Proof/Machine/Step.lean ====
section
/-! DEFINITION. One STEP (40_cycle.md R120): fetch, decode, execute, post-execute check. It always answers a next state;
the result a STEP returns to its host stands in that state's `outcome` field (log entry 1). -/

namespace Sys2Proof.Machine

/-- `STEP` (R120). A fetch that would read outside memory is a bounds fault: nothing changes, PC is not advanced and the
post-execute check does not run (R122). -/
def step (s : State) : Host.Outcome State Fault Refusal :=
  if canFetch s then afterExecute (executeWord (fetchWord s) (advancePc s))
  else raise .boundsFault s

/-- The state with an opcode placed where the next step fetches it, at PC and PC + 1, most significant byte first. The
word's bits are numbered as spec/opcode_table.json numbers them; those above nbits are zero. -/
def State.withFetchWord (s : State) (nbits w : Nat) : State :=
  let op := trunc16 (w % 2 ^ nbits)
  { s with mem := Memory.writeBytes s.mem s.pc.toNat [highByte op, lowByte op] }

end Sys2Proof.Machine
end

