-- ==== Sys2Proof/Machine/HostOps.lean ====
section
/-! DEFINITION. The host interface (60_exceptions.md R271 to R278, 70_reset_and_hazards.md R300 to R304): every operation
of R275 as one atomic function of the state, and a run of operations in any interleaving (R70, R282). -/

namespace Sys2Proof.Machine

/-- The result of LOAD (R303). -/
inductive LoadResult where
  | ok
  | notFound
  | tooLarge
deriving DecidableEq, Repr

/-- The numeric code of a load result (R303; the spec's decision D7, log entry 11). -/
def LoadResult.code : LoadResult → Nat
  | .ok       => 0
  | .notFound => 1
  | .tooLarge => 2

/-- The numeric code of a step's outcome (R260; D7, log entry 11). -/
def outcomeCode : Option Fault → Nat
  | none                 => 0
  | some .unknownOpcode  => 1
  | some .stackOverflow  => 2
  | some .stackUnderflow => 3
  | some .pcOverflow     => 4
  | some .boundsFault    => 5

/-- A copy of every element of 10_state.md, as READ_STATE returns it (R278). -/
structure Snapshot where
  v      : Vector Byte 16
  i      : Word
  pc     : Word
  sp     : Fin 17
  stack  : Vector Word 16
  dt     : Byte
  st     : Byte
  fb     : Framebuffer
  render : Bool
  keys   : Vector Bool 16
  mem    : Memory
deriving DecidableEq, Repr

/-- One element WRITE_STATE replaces, with a value of the element's width (R278). -/
inductive StateWrite where
  | v (x : Reg) (b : Byte)
  | i (w : Word)
  | pc (w : Word)
  | sp (n : Fin 17)
  | stack (k : Fin 16) (w : Word)
  | dt (b : Byte)
  | st (b : Byte)
  | fb (x : Fin 64) (y : Fin 32) (b : Bool)
  | render (b : Bool)
  | key (k : Fin 16) (b : Bool)
  | mem (a : Fin 4096) (b : Byte)
deriving DecidableEq, Repr

/-- The operations of R275. LOAD's source is `none` where it is absent or unreadable (R302). -/
inductive HostOp where
  | reset
  | load (source : Option (List Byte))
  | step
  | tick
  | setKeys (keys : Vector Bool 16)
  | readRender
  | readFb
  | sound
  | readState
  | writeState (writes : List StateWrite)
deriving DecidableEq, Repr

/-- What an operation returns (R275). -/
inductive HostReply where
  | none
  | loaded (r : LoadResult)
  | outcome (o : Option Fault)
  | flag (b : Bool)
  | pixels (l : List Nat)
  | state (s : Snapshot)
deriving DecidableEq, Repr

/-- RESET (R300): the reset state. The count of random bytes drawn is no state of the core and goes on, so that a draw
after a reset is fresh too (R181; log entry 2). -/
def hostReset (s : State) : State := { State.reset with draws := s.draws }

/-- LOAD (R302): reset first, then the checks, then the bytes from 0x200. -/
def hostLoad (source : Option (List Byte)) (s : State) : State × LoadResult :=
  let r := hostReset s
  match source with
  | none => (r, .notFound)
  | some bytes =>
    if bytes.length ≤ Config.maxRom then
      ({ r with mem := Memory.writeBytes r.mem Config.programStart bytes }, .ok)
    else (r, .tooLarge)

/-- SET_KEYS (R274): replace the key latch. -/
def hostSetKeys (keys : Vector Bool 16) (s : State) : State := { s with keys := keys }

/-- READ_RENDER (R273): the flag, then the flag cleared, as one operation. -/
def hostReadRender (s : State) : State × Bool := ({ s with render := false }, s.render)

/-- SOUND (R272): `ST != 0`. -/
def soundActive (s : State) : Bool := s.st != 0

/-- READ_FB (R277): 2048 pixels, element `y * 64 + x` is `FB[x, y]` (D12, log entry 17). -/
def readFb (s : State) : List Nat := (List.range 2048).map fun k => (pixelAt s.fb (k % 64) (k / 64)).toNat

/-- READ_STATE (R278). -/
def readState (s : State) : Snapshot where
  v      := s.v
  i      := s.i
  pc     := s.pc
  sp     := s.sp
  stack  := s.stack
  dt     := s.dt
  st     := s.st
  fb     := s.fb
  render := s.render
  keys   := s.keys
  mem    := s.mem

/-- Replace one element (R278). -/
def writeElement (s : State) : StateWrite → State
  | .v x b     => writeV x b s
  | .i w       => { s with i := w }
  | .pc w      => { s with pc := w }
  | .sp n      => { s with sp := n }
  | .stack k w => { s with stack := s.stack.set k.val w }
  | .dt b      => { s with dt := b }
  | .st b      => { s with st := b }
  | .fb x y b  => { s with fb := setPixel s.fb x.val y.val b }
  | .render b  => { s with render := b }
  | .key k b   => { s with keys := s.keys.set k.val b }
  | .mem a b   => { s with mem := Memory.write s.mem a.val b }

/-- WRITE_STATE (R278): replace a subset of the elements, in the order given (log entry 33). -/
def hostWriteState (writes : List StateWrite) (s : State) : State := writes.foldl writeElement s

/-- STEP with its returned outcome (R275). -/
def hostStep (s : State) : Host.Outcome (State × HostReply) Fault Refusal :=
  match step s with
  | .next t    => .next (t, .outcome t.outcome)
  | .fault f   => .fault f
  | .refused r => .refused r

/-- One host operation: the state after it and what it returns (R275). -/
def perform (op : HostOp) (s : State) : Host.Outcome (State × HostReply) Fault Refusal :=
  match op with
  | .reset             => .next (hostReset s, .none)
  | .load source       => .next ((hostLoad source s).1, .loaded (hostLoad source s).2)
  | .step              => hostStep s
  | .tick              => .next (tickTimers s, .none)
  | .setKeys keys      => .next (hostSetKeys keys s, .none)
  | .readRender        => .next ((hostReadRender s).1, .flag (hostReadRender s).2)
  | .readFb            => .next (s, .pixels (readFb s))
  | .sound             => .next (s, .flag (soundActive s))
  | .readState         => .next (s, .state (readState s))
  | .writeState writes => .next (hostWriteState writes s, .none)

/-- A run of host operations, one at a time, in the order the host calls them (R70, R282). -/
def performAll : List HostOp → State → Host.Outcome State Fault Refusal
  | [], s => .next s
  | op :: ops, s =>
    match perform op s with
    | .next (t, _) => performAll ops t
    | .fault f     => .fault f
    | .refused r   => .refused r

end Sys2Proof.Machine
end

