-- ==== Sys2Proof/Safety.lean ====
section
/-! DEFINITION. The terms claims are stated in: a step that goes well, the invariant of the core (10_state.md R35), and
what it means that an instruction leaves a part of the state alone. -/

namespace Sys2Proof.Machine

/-- A step goes well: it answers a next state and its outcome is OK (R260). -/
def StepsOk (s t : State) : Prop := step s = .next t ∧ t.outcome = none

/-- The invariant of the core between host operations (R35): PC lies in memory, every stack entry is an address a call
can have pushed (at most 0x1000, R142), and memory has its canonical form. SP, the registers and the pixels are within
their widths by their types. -/
def StateInv (s : State) : Prop :=
  s.pc.toNat < 4096 ∧ (∀ k : Fin 16, s.stack[k.val].toNat ≤ 4096) ∧ Memory.wf s.mem = true

/-- Every byte of memory reads as before. -/
def MemUnchanged (s t : State) : Prop := ∀ a : Nat, Memory.read t.mem a = Memory.read s.mem a

/-- Every byte of memory outside `n` bytes from `a` reads as before. -/
def MemUnchangedOutside (a n : Nat) (s t : State) : Prop :=
  ∀ b : Nat, (b < a ∨ a + n ≤ b) → Memory.read t.mem b = Memory.read s.mem b

/-- Every V register outside the listed ones is unchanged. -/
def RegsUnchangedExcept (xs : List Reg) (s t : State) : Prop := ∀ r : Reg, r ∉ xs → readV r t = readV r s

/-- I, the stack and its pointer, and both timers are unchanged. -/
def SpecialsUnchanged (s t : State) : Prop :=
  t.i = s.i ∧ t.sp = s.sp ∧ t.stack = s.stack ∧ t.dt = s.dt ∧ t.st = s.st

/-- The framebuffer, the render flag and the key latch are unchanged. -/
def DevicesUnchanged (s t : State) : Prop := t.fb = s.fb ∧ t.render = s.render ∧ t.keys = s.keys

/-- Everything but PC, the V registers and I is as before, and the instruction completed (outcome OK). -/
def RestUnchanged (s t : State) : Prop :=
  t.sp = s.sp ∧ t.stack = s.stack ∧ t.dt = s.dt ∧ t.st = s.st ∧ DevicesUnchanged s t ∧ MemUnchanged s t ∧
    t.draws = s.draws ∧ t.outcome = none

/-- Only V registers among the listed ones changed, and the instruction completed. -/
def OnlyRegsChanged (xs : List Reg) (s t : State) : Prop :=
  RegsUnchangedExcept xs s t ∧ t.i = s.i ∧ t.pc = s.pc ∧ RestUnchanged s t

/-- Only PC changed, and the instruction completed. -/
def OnlyPcChanged (s t : State) : Prop := RegsUnchangedExcept [] s t ∧ t.i = s.i ∧ RestUnchanged s t

/-- Only I changed, and the instruction completed. -/
def OnlyIndexChanged (s t : State) : Prop := RegsUnchangedExcept [] s t ∧ t.pc = s.pc ∧ RestUnchanged s t

/-- The sprite bit that falls on column px, row py, for a sprite of n rows at origin (x0, y0) and address I: bit 7 of a
row's byte is column x0, bit 0 column x0 + 7, and row r is row y0 + r of the screen (R221, R222). -/
def spriteBitAt (s : State) (x0 y0 n px py : Nat) : Bool :=
  decide (x0 ≤ px) && decide (px < x0 + 8) && decide (y0 ≤ py) && decide (py < y0 + n) &&
    (Memory.read s.mem (s.i.toNat + (py - y0))).getLsbD (7 - (px - x0))

end Sys2Proof.Machine
end

