-- ==== Sys2Proof/Certificates/Slice0/Obligations.lean ====
section
/-! DEFINITION. The statements about the model, for the provers. Each docstring names the rule of spec/ it formalises; one
that rests on a decision the spec marks as its own (D<n> of 92_eei_decisions.md) or on a choice of the model says so and
names the log entry. `exec` is entered right after the fetch, so the PC of the state it is given is A + 2 (log entry 29). -/

open Sys2Proof Sys2Proof.Machine

/-! ## Encoding -/

/-- 30_encoding.md sections 1 to 3: no bit of an instruction is lost. For every instruction, with every operand at every
value, its opcode decodes to it, and so do its two bytes whatever follows them. -/
def Obligations.DecodeOfEncodeIsIdentity : Prop :=
  ∀ i : Instr, decode (encode i) = .instr i ∧ ∀ rest : List Byte, decodeBytes (encodeBytes i ++ rest) = .instr i

/-- 30_encoding.md R97 (the spec marks it as derived): no bit of an opcode is a don't-care, so the opcode an instruction
was decoded from is its encoding. -/
def Obligations.EncodeOfDecodeIsIdentity : Prop :=
  ∀ (op : Word) (i : Instr), decode op = .instr i → encode i = op

/-- 30_encoding.md R95, R96 (their counts are the spec's own derivation): a word is an instruction exactly when it matches
a row of the opcode map, and the words of each of the 34 rows, with every operand at every value, are that row's
instruction with each operand in its place. -/
def Obligations.DecodeFollowsOpcodeMap : Prop :=
  (∀ op : Word, (∃ i : Instr, decode op = .instr i) ↔ wellFormedWord op = true) ∧
  decode 0x00E0 = .instr .cls ∧ decode 0x00EE = .instr .ret ∧
  (∀ nnn : Addr12,
    decode (BitVec.ofNat 16 (0x1000 + nnn.toNat)) = .instr (.jp nnn) ∧
    decode (BitVec.ofNat 16 (0x2000 + nnn.toNat)) = .instr (.call nnn) ∧
    decode (BitVec.ofNat 16 (0xA000 + nnn.toNat)) = .instr (.ldI nnn) ∧
    decode (BitVec.ofNat 16 (0xB000 + nnn.toNat)) = .instr (.jpV0 nnn)) ∧
  (∀ (x : Reg) (nn : Byte),
    decode (BitVec.ofNat 16 (0x3000 + 256 * x.val + nn.toNat)) = .instr (.seByte x nn) ∧
    decode (BitVec.ofNat 16 (0x4000 + 256 * x.val + nn.toNat)) = .instr (.sneByte x nn) ∧
    decode (BitVec.ofNat 16 (0x6000 + 256 * x.val + nn.toNat)) = .instr (.ldByte x nn) ∧
    decode (BitVec.ofNat 16 (0x7000 + 256 * x.val + nn.toNat)) = .instr (.addByte x nn) ∧
    decode (BitVec.ofNat 16 (0xC000 + 256 * x.val + nn.toNat)) = .instr (.rnd x nn)) ∧
  (∀ x y : Reg,
    decode (BitVec.ofNat 16 (0x5000 + 256 * x.val + 16 * y.val)) = .instr (.seReg x y) ∧
    decode (BitVec.ofNat 16 (0x8000 + 256 * x.val + 16 * y.val)) = .instr (.ldReg x y) ∧
    decode (BitVec.ofNat 16 (0x8001 + 256 * x.val + 16 * y.val)) = .instr (.orReg x y) ∧
    decode (BitVec.ofNat 16 (0x8002 + 256 * x.val + 16 * y.val)) = .instr (.andReg x y) ∧
    decode (BitVec.ofNat 16 (0x8003 + 256 * x.val + 16 * y.val)) = .instr (.xorReg x y) ∧
    decode (BitVec.ofNat 16 (0x8004 + 256 * x.val + 16 * y.val)) = .instr (.addReg x y) ∧
    decode (BitVec.ofNat 16 (0x8005 + 256 * x.val + 16 * y.val)) = .instr (.subReg x y) ∧
    decode (BitVec.ofNat 16 (0x8006 + 256 * x.val + 16 * y.val)) = .instr (.shrReg x y) ∧
    decode (BitVec.ofNat 16 (0x8007 + 256 * x.val + 16 * y.val)) = .instr (.subnReg x y) ∧
    decode (BitVec.ofNat 16 (0x800E + 256 * x.val + 16 * y.val)) = .instr (.shlReg x y) ∧
    decode (BitVec.ofNat 16 (0x9000 + 256 * x.val + 16 * y.val)) = .instr (.sneReg x y)) ∧
  (∀ (x y : Reg) (n : Fin 16),
    decode (BitVec.ofNat 16 (0xD000 + 256 * x.val + 16 * y.val + n.val)) = .instr (.drw x y n)) ∧
  ∀ x : Reg,
    decode (BitVec.ofNat 16 (0xE09E + 256 * x.val)) = .instr (.skp x) ∧
    decode (BitVec.ofNat 16 (0xE0A1 + 256 * x.val)) = .instr (.sknp x) ∧
    decode (BitVec.ofNat 16 (0xF007 + 256 * x.val)) = .instr (.ldVxDt x) ∧
    decode (BitVec.ofNat 16 (0xF00A + 256 * x.val)) = .instr (.ldVxK x) ∧
    decode (BitVec.ofNat 16 (0xF015 + 256 * x.val)) = .instr (.ldDtVx x) ∧
    decode (BitVec.ofNat 16 (0xF018 + 256 * x.val)) = .instr (.ldStVx x) ∧
    decode (BitVec.ofNat 16 (0xF01E + 256 * x.val)) = .instr (.addI x) ∧
    decode (BitVec.ofNat 16 (0xF029 + 256 * x.val)) = .instr (.ldF x) ∧
    decode (BitVec.ofNat 16 (0xF033 + 256 * x.val)) = .instr (.ldB x) ∧
    decode (BitVec.ofNat 16 (0xF055 + 256 * x.val)) = .instr (.storeRegs x) ∧
    decode (BitVec.ofNat 16 (0xF065 + 256 * x.val)) = .instr (.loadRegs x)

/-- 30_encoding.md R95, "no 16-bit value matches two rows" (the spec marks it as derived). -/
def Obligations.NoWordMatchesTwoRows : Prop :=
  ∀ (op : Word) (r q : OpcodeRow), r ∈ opcodeRows → q ∈ opcodeRows →
    r.matchesWord op = true → q.matchesWord op = true → r = q

/-- 30_encoding.md R96: the illegal space, space by space, in the bits of the word. That the whole list is exact is the
spec's own derivation. -/
def Obligations.IllegalSpaceIsExact : Prop :=
  ∀ op : Word,
    (decode op = .illegal .unmappedZero ↔ bitsOf op 15 12 = 0x0 ∧ op ≠ 0x00E0 ∧ op ≠ 0x00EE) ∧
    (decode op = .illegal .skipEqualNibble ↔ bitsOf op 15 12 = 0x5 ∧ bitsOf op 3 0 ≠ 0) ∧
    (decode op = .illegal .unmappedAlu ↔
      bitsOf op 15 12 = 0x8 ∧ bitsOf op 3 0 ∈ [0x8, 0x9, 0xA, 0xB, 0xC, 0xD, 0xF]) ∧
    (decode op = .illegal .skipDiffersNibble ↔ bitsOf op 15 12 = 0x9 ∧ bitsOf op 3 0 ≠ 0) ∧
    (decode op = .illegal .unmappedKey ↔ bitsOf op 15 12 = 0xE ∧ bitsOf op 7 0 ∉ [0x9E, 0xA1]) ∧
    (decode op = .illegal .unmappedMisc ↔
      bitsOf op 15 12 = 0xF ∧ bitsOf op 7 0 ∉ [0x07, 0x0A, 0x15, 0x18, 0x1E, 0x29, 0x33, 0x55, 0x65]) ∧
    decode op ≠ .illegal .truncated

/-- 30_encoding.md R91: the fields of an opcode, their bits and their overlap. -/
def Obligations.FieldsAreTheOpcodeBits : Prop :=
  ∀ op : Word,
    (fieldsOf op).family.val = op.toNat / 4096 ∧ (fieldsOf op).x.val = op.toNat / 256 % 16 ∧
    (fieldsOf op).y.val = op.toNat / 16 % 16 ∧ (fieldsOf op).n.val = op.toNat % 16 ∧
    (fieldsOf op).nn.toNat = op.toNat % 256 ∧ (fieldsOf op).nnn.toNat = op.toNat % 4096 ∧
    (fieldsOf op).nn.toNat = (fieldsOf op).y.val * 16 + (fieldsOf op).n.val ∧
    (fieldsOf op).nnn.toNat = (fieldsOf op).x.val * 256 + (fieldsOf op).y.val * 16 + (fieldsOf op).n.val

/-- 30_encoding.md R95: one word of each of the 34 rows of the opcode map, written out from its pattern, decodes to that
row's instruction. -/
def Obligations.SpecWordsDecode : Prop :=
  decode 0x00E0 = .instr .cls ∧ decode 0x00EE = .instr .ret ∧ decode 0x1234 = .instr (.jp 0x234) ∧
  decode 0x2300 = .instr (.call 0x300) ∧ decode 0x3342 = .instr (.seByte 3 0x42) ∧
  decode 0x4342 = .instr (.sneByte 3 0x42) ∧ decode 0x5120 = .instr (.seReg 1 2) ∧
  decode 0x6A2B = .instr (.ldByte 10 0x2B) ∧ decode 0x73FF = .instr (.addByte 3 0xFF) ∧
  decode 0x8120 = .instr (.ldReg 1 2) ∧ decode 0x8121 = .instr (.orReg 1 2) ∧
  decode 0x8122 = .instr (.andReg 1 2) ∧ decode 0x8123 = .instr (.xorReg 1 2) ∧
  decode 0x8124 = .instr (.addReg 1 2) ∧ decode 0x8125 = .instr (.subReg 1 2) ∧
  decode 0x8126 = .instr (.shrReg 1 2) ∧ decode 0x8127 = .instr (.subnReg 1 2) ∧
  decode 0x812E = .instr (.shlReg 1 2) ∧ decode 0x9120 = .instr (.sneReg 1 2) ∧
  decode 0xABCD = .instr (.ldI 0xBCD) ∧ decode 0xB123 = .instr (.jpV0 0x123) ∧
  decode 0xC30F = .instr (.rnd 3 0x0F) ∧ decode 0xD123 = .instr (.drw 1 2 3) ∧
  decode 0xE49E = .instr (.skp 4) ∧ decode 0xE4A1 = .instr (.sknp 4) ∧ decode 0xF207 = .instr (.ldVxDt 2) ∧
  decode 0xF30A = .instr (.ldVxK 3) ∧ decode 0xF215 = .instr (.ldDtVx 2) ∧ decode 0xF218 = .instr (.ldStVx 2) ∧
  decode 0xF51E = .instr (.addI 5) ∧ decode 0xF029 = .instr (.ldF 0) ∧ decode 0xF033 = .instr (.ldB 0) ∧
  decode 0xF255 = .instr (.storeRegs 2) ∧ decode 0xF265 = .instr (.loadRegs 2)

/-! ## The instruction cycle -/

/-- 40_cycle.md R120, R121, R124: when the two bytes at PC, most significant first, decode to an instruction, a step is
that instruction's execution with PC two further, and then the post-execute check: PC at or above 0x1000 goes back to
0x200 (and the outcome says PC_OVERFLOW unless the instruction faulted: the spec's decision D6, log entry 10). -/
def Obligations.StepRunsDecodedInstruction : Prop :=
  ∀ (s t : State) (i : Instr), s.pc.toNat + 1 < 4096 →
    decode (BitVec.ofNat 16 ((Memory.read s.mem s.pc.toNat).toNat * 256 +
      (Memory.read s.mem (s.pc.toNat + 1)).toNat)) = .instr i →
    exec i { s with pc := s.pc + 2 } = .next t →
    step s = .next (if t.pc.toNat < 4096 then t
      else { t with pc := 0x200, outcome := if t.outcome = none then some .pcOverflow else t.outcome })

/-- 40_cycle.md R122 (the spec's decision D2, log entry 7): a fetch that would read outside memory is a bounds fault;
nothing changes, PC is not advanced. -/
def Obligations.FetchOutsideMemoryIsBoundsFault : Prop :=
  ∀ s : State, 4096 ≤ s.pc.toNat + 1 → step s = .next { s with outcome := some .boundsFault }

/-- 30_encoding.md R96, 60_exceptions.md R261: a word that is no instruction is UNKNOWN_OPCODE and changes nothing but PC,
which is A + 2, or 0x200 where A + 2 = 0x1000 (the spec's decision D6, log entry 10). -/
def Obligations.UnknownOpcodeChangesOnlyPc : Prop :=
  ∀ s : State, s.pc.toNat + 1 < 4096 →
    wellFormedWord (BitVec.ofNat 16 ((Memory.read s.mem s.pc.toNat).toNat * 256 +
      (Memory.read s.mem (s.pc.toNat + 1)).toNat)) = false →
    step s = .next { s with
      pc := if s.pc.toNat + 2 = 4096 then 0x200 else s.pc + 2
      outcome := some .unknownOpcode }

/-- 40_cycle.md R129, 60_exceptions.md R268 (the spec's decision D30, log entry 26): no outcome stops the machine; every
step answers a next state, and so does every execution of an instruction. -/
def Obligations.EveryStepAnswersNextState : Prop :=
  (∀ s : State, ∃ t : State, step s = .next t) ∧ ∀ (i : Instr) (s : State), ∃ t : State, exec i s = .next t

/-- 40_cycle.md R125, R131 (the spec's decisions D3, D5, D6, log entries 8 and 10): a step whose outcome is a fault other
than PC_OVERFLOW changes nothing but PC. PC stays at A where the fetch faulted, and is else A + 2, or 0x200 where
A + 2 = 0x1000. -/
def Obligations.FaultChangesNothingButPc : Prop :=
  ∀ (s t : State) (f : Fault), step s = .next t → t.outcome = some f → f ≠ .pcOverflow →
    t = { s with pc := t.pc, outcome := some f } ∧
    t.pc = if 4096 ≤ s.pc.toNat + 1 then s.pc else if s.pc.toNat + 2 = 4096 then 0x200 else s.pc + 2

/-- 40_cycle.md R126, R131 (the spec's decision D6, log entry 10): after a step whose outcome is OK, PC lies in memory.
After one whose outcome is PC_OVERFLOW, the word at PC was an instruction that completed and left PC outside memory, PC is
0x200, and the post-execute check "never touches registers or memory": everything but PC and the outcome is as that
instruction left it. -/
def Obligations.OutcomeTellsWherePcIs : Prop :=
  ∀ s t : State, step s = .next t →
    (t.outcome = none → t.pc.toNat < 4096) ∧
    (t.outcome = some .pcOverflow → s.pc.toNat + 1 < 4096 ∧ ∃ (i : Instr) (u : State),
      decode (BitVec.ofNat 16 ((Memory.read s.mem s.pc.toNat).toNat * 256 +
        (Memory.read s.mem (s.pc.toNat + 1)).toNat)) = .instr i ∧
      exec i { s with pc := s.pc + 2 } = .next u ∧ u.outcome = none ∧ 4096 ≤ u.pc.toNat ∧ t = { u with pc := 0x200, outcome := some .pcOverflow })

/-- 40_cycle.md R129 (the spec's decision D30; the outcome field is the model's own, log entry 1): a step keeps no record
of the outcome before it. Neither a step nor an instruction depends on it. -/
def Obligations.PreviousOutcomeIsNeverRead : Prop :=
  ∀ (s : State) (o : Option Fault), step { s with outcome := o } = step s ∧
    ∀ i : Instr, exec i { s with outcome := o } = exec i s

/-! ## Invariants -/

/-- 10_state.md R34 and 70_reset_and_hazards.md R300, R301 (decisions D13 and D20 to D22; log entries 5 and 3): what reset
leaves, and that the host's RESET goes there from every state. Memory reads zero at every address outside the font, and as
`fontData` in it where a font is present, below 0x200; PC is 0x200; everything else is zero or false. That RESET keeps the
count of random bytes drawn is the model's own (log entry 2), and so is the outcome it leaves, none (log entry 1). -/
def Obligations.ResetState : Prop :=
  State.reset.pc = 0x200 ∧ State.reset.i = 0 ∧ State.reset.sp = 0 ∧ State.reset.dt = 0 ∧ State.reset.st = 0 ∧
  State.reset.render = false ∧ (∀ x : Reg, readV x State.reset = 0) ∧ (∀ k : Fin 16, State.reset.stack[k.val] = 0) ∧
  (∀ x y : Nat, pixelAt State.reset.fb x y = false) ∧ (∀ k : Nat, keyPressed State.reset k = false) ∧
  (∀ a : Nat, 0x200 ≤ a → Memory.read State.reset.mem a = 0) ∧
  (fontPresent = false → ∀ a : Nat, Memory.read State.reset.mem a = 0) ∧
  (fontPresent = true →
    (∀ k : Nat, k < 16 * glyphStride →
      fontBase + k < 0x200 ∧ Memory.read State.reset.mem (fontBase + k) = fontData k) ∧
    ∀ a : Nat, (a < fontBase ∨ fontBase + 16 * glyphStride ≤ a) → Memory.read State.reset.mem a = 0) ∧
  State.reset.outcome = none ∧
  ∀ s : State, perform .reset s = .next ({ State.reset with draws := s.draws }, .none)

/-- 10_state.md R35 (the spec marks it as derived): the invariant holds at reset. -/
def Obligations.InvariantHoldsAtReset : Prop := StateInv State.reset

/-- 10_state.md R35 (the spec marks it as derived): from every state that meets the invariant, PC in memory, every stack
entry at most 0x1000 and memory in its canonical form, a step goes to a state that meets it. -/
def Obligations.StepKeepsInvariant : Prop :=
  ∀ s t : State, StateInv s → step s = .next t → StateInv t

/-- 10_state.md R35 (the spec marks it as derived), 60_exceptions.md R282: every run of host operations without
WRITE_STATE, in any interleaving, leads from a state that meets the invariant to one that meets it. -/
def Obligations.HostOperationsKeepInvariant : Prop :=
  ∀ (ops : List HostOp) (s : State), (∀ op ∈ ops, ∀ ws : List StateWrite, op ≠ .writeState ws) → StateInv s →
    ∃ t : State, performAll ops s = .next t ∧ StateInv t

/-- 40_cycle.md R128 (the spec marks it as derived): from a state that meets the invariant, the PC an instruction leaves,
before the post-execute check, is at most 0x10FE. -/
def Obligations.ExecutedPcIsAtMost10FE : Prop :=
  ∀ (s t : State) (i : Instr), StateInv s → s.pc.toNat + 1 < 4096 → exec i { s with pc := s.pc + 2 } = .next t →
    t.pc.toNat ≤ 0x10FE

/-- 20_memory.md R69: a read returns the byte last written there, or what was there before, and a memory with nothing
written reads as reset left it. That a write at or above 0x1000 changes nothing is R62 with the spec's decisions D1 and D3
(log entry 7); the canonical form, which a write keeps, is the model's own (log entry 4). -/
def Obligations.ReadReturnsLastWrite : Prop :=
  ∀ (m : Memory) (a c : Nat) (b : Byte), Memory.wf m = true →
    Memory.wf (Memory.write m a b) = true ∧
    Memory.read (Memory.write m a b) c = (if c = a ∧ a < 4096 then b else Memory.read m c) ∧
    Memory.read [] c = resetByte c

/-- The model's canonical form (log entry 4): two memories in canonical form that read the same everywhere are equal. -/
def Obligations.CanonicalMemoriesAreEqual : Prop :=
  ∀ m k : Memory, Memory.wf m = true → Memory.wf k = true → (∀ a : Nat, Memory.read m a = Memory.read k a) → m = k

/-! ## Which instruction touches what -/

/-- 10_state.md R30: the host writes the key latch, no instruction does, and only EX9E, EXA1 and FX0A read it. -/
def Obligations.KeysAreOnlyRead : Prop :=
  (∀ (s : State) (ks : Vector Bool 16), ∃ t : State, perform (.setKeys ks) s = .next (t, .none) ∧ t.keys = ks) ∧
  (∀ s t : State, step s = .next t → t.keys = s.keys) ∧
  ∀ (i : Instr) (s t : State) (ks : Vector Bool 16), (∀ x : Reg, i ≠ .skp x ∧ i ≠ .sknp x ∧ i ≠ .ldVxK x) →
    exec i s = .next t → exec i { s with keys := ks } = .next { t with keys := ks }

/-- 20_memory.md section 1: of the instructions only FX33 and FX55 write memory, and only they, DXYN and FX65 access it. -/
def Obligations.MemoryAccessingInstructions : Prop :=
  (∀ (i : Instr) (s t : State), (∀ x : Reg, i ≠ .ldB x ∧ i ≠ .storeRegs x) → exec i s = .next t → MemUnchanged s t) ∧
  ∀ (i : Instr) (s t : State) (m : Memory), (∀ x : Reg, i ≠ .ldB x ∧ i ≠ .storeRegs x ∧ i ≠ .loadRegs x) →
    (∀ (x y : Reg) (n : Fin 16), i ≠ .drw x y n) → exec i s = .next t →
    exec i { s with mem := m } = .next { t with mem := m }

/-- 10_state.md R28 (its snapshot layout is decision D12): only 00E0 and DXYN write the framebuffer, only DXYN reads it. -/
def Obligations.FramebufferAccessingInstructions : Prop :=
  (∀ (i : Instr) (s t : State), i ≠ .cls → (∀ (x y : Reg) (n : Fin 16), i ≠ .drw x y n) →
    exec i s = .next t → t.fb = s.fb) ∧
  (∀ (i : Instr) (s t : State) (fb : Framebuffer), i ≠ .cls → (∀ (x y : Reg) (n : Fin 16), i ≠ .drw x y n) →
    exec i s = .next t → exec i { s with fb := fb } = .next { t with fb := fb }) ∧
  ∀ (s : State) (fb : Framebuffer), exec .cls { s with fb := fb } = exec .cls s

/-- 10_state.md R29: 00E0 and a completed DXYN set RENDER, no other instruction writes it, none reads it, and the host's
READ_RENDER returns it and clears it and changes nothing else. -/
def Obligations.RenderFlagRules : Prop :=
  (∀ (i : Instr) (s t : State), (i = .cls ∨ ∃ (x y : Reg) (n : Fin 16), i = .drw x y n) →
    exec i s = .next t → t.outcome = none → t.render = true) ∧
  (∀ (i : Instr) (s t : State), i ≠ .cls → (∀ (x y : Reg) (n : Fin 16), i ≠ .drw x y n) →
    exec i s = .next t → t.render = s.render) ∧
  (∀ (i : Instr) (s t : State) (b : Bool), exec i s = .next t →
    ∃ c : Bool, exec i { s with render := b } = .next { t with render := c }) ∧
  ∀ s : State, perform .readRender s = .next ({ s with render := false }, .flag s.render)

/-- 10_state.md R25 (what an entry above SP holds is decision D14): only 2NNN and 00EE touch SP and STACK, and no other
instruction reads them. -/
def Obligations.StackAccessingInstructions : Prop :=
  ∀ (i : Instr) (s t : State) (n : Fin 17) (st : Vector Word 16), i ≠ .ret → (∀ a : Addr12, i ≠ .call a) →
    exec i s = .next t → t.sp = s.sp ∧ t.stack = s.stack ∧
      exec i { s with sp := n, stack := st } = .next { t with sp := n, stack := st }

/-- 10_state.md R26, R27: among the instructions only FX15 writes DT and only FX07 reads it; only FX18 writes ST and none
reads it. -/
def Obligations.TimerAccessingInstructions : Prop :=
  ∀ (i : Instr) (s t : State) (b : Byte), exec i s = .next t →
    ((∀ x : Reg, i ≠ .ldDtVx x) → t.dt = s.dt) ∧ ((∀ x : Reg, i ≠ .ldStVx x) → t.st = s.st) ∧
    ((∀ x : Reg, i ≠ .ldVxDt x ∧ i ≠ .ldDtVx x) → exec i { s with dt := b } = .next { t with dt := b }) ∧
    (∀ x : Reg, i = .ldDtVx x → exec i { s with dt := b } = .next t) ∧
    ((∀ x : Reg, i ≠ .ldStVx x) → exec i { s with st := b } = .next { t with st := b }) ∧
    (∀ x : Reg, i = .ldStVx x → exec i { s with st := b } = .next t)

/-- 10_state.md R22 (the spec marks it as derived and, for 8XY1 to 8XY3, as decision D8, log entry 12): an instruction
writes VF only as its flag, 8XY4 to 8XY7, 8XYE and DXYN, or as its named destination. -/
def Obligations.FlagWritingInstructions : Prop :=
  ∀ (i : Instr) (s t : State), exec i s = .next t →
    (∀ (x y : Reg) (n : Fin 16), i ≠ .addReg x y ∧ i ≠ .subReg x y ∧ i ≠ .shrReg x y ∧ i ≠ .subnReg x y ∧
      i ≠ .shlReg x y ∧ i ≠ .drw x y n) →
    (∀ (y : Reg) (nn : Byte), i ≠ .ldByte 15 nn ∧ i ≠ .addByte 15 nn ∧ i ≠ .ldReg 15 y ∧ i ≠ .orReg 15 y ∧
      i ≠ .andReg 15 y ∧ i ≠ .xorReg 15 y ∧ i ≠ .rnd 15 nn ∧ i ≠ .ldVxDt 15 ∧ i ≠ .ldVxK 15 ∧ i ≠ .loadRegs 15) →
    readV 15 t = readV 15 s

/-- 10_state.md R23 (its 16-bit wrap is decision D27, log entry 24): only ANNN, FX1E, FX29, FX55 and FX65 write I, and I
may hold any value: no instruction but DXYN, FX33, FX55 and FX65 faults for it. -/
def Obligations.IndexWritingInstructions : Prop :=
  ∀ (i : Instr) (s t : State), exec i s = .next t →
    ((∀ (x : Reg) (nnn : Addr12), i ≠ .ldI nnn ∧ i ≠ .addI x ∧ i ≠ .ldF x ∧ i ≠ .storeRegs x ∧ i ≠ .loadRegs x) →
      t.i = s.i) ∧
    ((∀ (x y : Reg) (n : Fin 16), i ≠ .ldB x ∧ i ≠ .storeRegs x ∧ i ≠ .loadRegs x ∧ i ≠ .drw x y n ∧
        i ≠ .skp x ∧ i ≠ .sknp x) →
      t.outcome ≠ some .boundsFault)

/-! ## Control transfer -/

/-- 41_flow.md R141, R147: 1NNN jumps to NNN, BNNN to NNN + V0 without a wrap; nothing else changes and neither faults. -/
def Obligations.JumpsGoToTheirTarget : Prop :=
  ∀ (nnn : Addr12) (s : State),
    (decode (BitVec.ofNat 16 (0x1000 + nnn.toNat)) = .instr (.jp nnn) ∧
      ∃ t : State, exec (.jp nnn) s = .next t ∧ t.pc.toNat = nnn.toNat ∧ OnlyPcChanged s t) ∧
    (decode (BitVec.ofNat 16 (0xB000 + nnn.toNat)) = .instr (.jpV0 nnn) ∧
      ∃ t : State, exec (.jpV0 nnn) s = .next t ∧ t.pc.toNat = nnn.toNat + (readV 0 s).toNat ∧ OnlyPcChanged s t)

/-- 41_flow.md R142 (STACK_CAPACITY is decision D23, the state after an overflow D5; log entries 6 and 8): 2NNN pushes PC,
which is A + 2, and jumps; with 16 entries in use it is a stack overflow and changes nothing. -/
def Obligations.CallPushesReturnAddress : Prop :=
  ∀ (nnn : Addr12) (s : State),
    (s.sp.val < 16 → ∃ t : State, exec (.call nnn) s = .next t ∧ t.pc.toNat = nnn.toNat ∧ t.sp.val = s.sp.val + 1 ∧
      (∀ k : Fin 16, t.stack[k.val] = if k.val = s.sp.val then s.pc else s.stack[k.val]) ∧
      RegsUnchangedExcept [] s t ∧ t.i = s.i ∧ t.dt = s.dt ∧ t.st = s.st ∧ DevicesUnchanged s t ∧
      MemUnchanged s t ∧ t.draws = s.draws ∧ t.outcome = none) ∧
    (s.sp.val = 16 → exec (.call nnn) s = .next { s with outcome := some .stackOverflow })

/-- 41_flow.md R140 (the state after an underflow is decision D5, that the popped entry keeps its value D14; log entries 8
and 18): 00EE pops PC; with no entry in use it is a stack underflow and changes nothing. -/
def Obligations.ReturnPopsAddress : Prop :=
  ∀ s : State,
    (∀ k : Fin 16, s.sp.val = k.val + 1 → ∃ t : State, exec .ret s = .next t ∧ t.pc = s.stack[k.val] ∧
      t.sp.val = k.val ∧ t.stack = s.stack ∧ RegsUnchangedExcept [] s t ∧ t.i = s.i ∧ t.dt = s.dt ∧ t.st = s.st ∧
      DevicesUnchanged s t ∧ MemUnchanged s t ∧ t.draws = s.draws ∧ t.outcome = none) ∧
    (s.sp.val = 0 → exec .ret s = .next { s with outcome := some .stackUnderflow })

/-- 95_test_vectors.md L1 entry 5, "call then return restores PC to the instruction immediately after the call, and stack
pointer returns to its pre-call value": a return executed anywhere after a call, with SP and STACK as the call left them,
goes to the PC the call was entered with and restores SP. -/
def Obligations.ReturnUndoesCall : Prop :=
  ∀ (nnn : Addr12) (s t u : State), s.sp.val < 16 → exec (.call nnn) s = .next t → u.sp = t.sp → u.stack = t.stack →
    ∃ w : State, exec .ret u = .next w ∧ w.outcome = none ∧ w.pc = s.pc ∧ w.sp = s.sp

/-- 41_flow.md R143, R144: 3XNN skips the next opcode when VX equals NN, 4XNN when it differs; neither changes anything
else or faults. -/
def Obligations.ByteSkips : Prop :=
  ∀ (x : Reg) (nn : Byte) (s : State),
    (decode (BitVec.ofNat 16 (0x3000 + 256 * x.val + nn.toNat)) = .instr (.seByte x nn) ∧
      ∃ t : State, exec (.seByte x nn) s = .next t ∧
        t.pc = (if readV x s = nn then s.pc + 2 else s.pc) ∧ OnlyPcChanged s t) ∧
    (decode (BitVec.ofNat 16 (0x4000 + 256 * x.val + nn.toNat)) = .instr (.sneByte x nn) ∧
      ∃ t : State, exec (.sneByte x nn) s = .next t ∧
        t.pc = (if readV x s = nn then s.pc else s.pc + 2) ∧ OnlyPcChanged s t)

/-- 41_flow.md R145, R146: 5XY0 skips when VX equals VY, 9XY0 when they differ; a nonzero low nibble is no instruction. -/
def Obligations.RegisterSkips : Prop :=
  ∀ (x y : Reg) (s : State),
    (decode (BitVec.ofNat 16 (0x5000 + 256 * x.val + 16 * y.val)) = .instr (.seReg x y) ∧
      (∀ n : Fin 16, n ≠ 0 →
        decode (BitVec.ofNat 16 (0x5000 + 256 * x.val + 16 * y.val + n.val)) = .illegal .skipEqualNibble) ∧
      ∃ t : State, exec (.seReg x y) s = .next t ∧
        t.pc = (if readV x s = readV y s then s.pc + 2 else s.pc) ∧ OnlyPcChanged s t) ∧
    (decode (BitVec.ofNat 16 (0x9000 + 256 * x.val + 16 * y.val)) = .instr (.sneReg x y) ∧
      (∀ n : Fin 16, n ≠ 0 →
        decode (BitVec.ofNat 16 (0x9000 + 256 * x.val + 16 * y.val + n.val)) = .illegal .skipDiffersNibble) ∧
      ∃ t : State, exec (.sneReg x y) s = .next t ∧
        t.pc = (if readV x s = readV y s then s.pc else s.pc + 2) ∧ OnlyPcChanged s t)

/-! ## Register loads and the ALU -/

/-- 42_alu.md R170, R171, R172: 6XNN loads NN, 7XNN adds NN modulo 256 with no flag, 8XY0 copies VY. Only VX changes, VF
too only where X = F, and none faults. -/
def Obligations.RegisterLoadsAndImmediateAdd : Prop :=
  ∀ (x y : Reg) (nn : Byte) (s : State),
    (decode (BitVec.ofNat 16 (0x6000 + 256 * x.val + nn.toNat)) = .instr (.ldByte x nn) ∧
      ∃ t : State, exec (.ldByte x nn) s = .next t ∧ readV x t = nn ∧ OnlyRegsChanged [x] s t) ∧
    (decode (BitVec.ofNat 16 (0x7000 + 256 * x.val + nn.toNat)) = .instr (.addByte x nn) ∧
      ∃ t : State, exec (.addByte x nn) s = .next t ∧
        (readV x t).toNat = ((readV x s).toNat + nn.toNat) % 256 ∧ OnlyRegsChanged [x] s t) ∧
    (decode (BitVec.ofNat 16 (0x8000 + 256 * x.val + 16 * y.val)) = .instr (.ldReg x y) ∧
      ∃ t : State, exec (.ldReg x y) s = .next t ∧ readV x t = readV y s ∧ OnlyRegsChanged [x] s t)

/-- 42_alu.md R173, R174, R175: 8XY1, 8XY2, 8XY3 leave VX OR, AND, XOR VY in VX, bit by bit, and change nothing else. That
VF is left alone is the spec's decision D8 (log entry 12). -/
def Obligations.LogicWritesOnlyVx : Prop :=
  ∀ (x y : Reg) (s : State),
    (∃ t : State, exec (.orReg x y) s = .next t ∧
      (∀ k : Nat, (readV x t).getLsbD k = ((readV x s).getLsbD k || (readV y s).getLsbD k)) ∧ OnlyRegsChanged [x] s t) ∧
    (∃ t : State, exec (.andReg x y) s = .next t ∧
      (∀ k : Nat, (readV x t).getLsbD k = ((readV x s).getLsbD k && (readV y s).getLsbD k)) ∧ OnlyRegsChanged [x] s t) ∧
    ∃ t : State, exec (.xorReg x y) s = .next t ∧
      (∀ k : Nat, (readV x t).getLsbD k = ((readV x s).getLsbD k ^^ (readV y s).getLsbD k)) ∧ OnlyRegsChanged [x] s t

/-- 42_alu.md R176: 8XY4 leaves the sum modulo 256 in VX and the carry in VF, VF last. -/
def Obligations.AddWritesSumAndCarry : Prop :=
  ∀ (x y : Reg) (s : State), decode (BitVec.ofNat 16 (0x8004 + 256 * x.val + 16 * y.val)) = .instr (.addReg x y) ∧
    ∃ t : State, exec (.addReg x y) s = .next t ∧
      (x ≠ 15 → (readV x t).toNat = ((readV x s).toNat + (readV y s).toNat) % 256) ∧
      readV 15 t = (if (readV x s).toNat + (readV y s).toNat > 255 then 1 else 0) ∧ OnlyRegsChanged [x, 15] s t

/-- 42_alu.md R177, R179: 8XY5 leaves VX - VY, 8XY7 VY - VX, modulo 256 in VX, and NOT borrow in VF, VF last. -/
def Obligations.SubtractWritesDifferenceAndNotBorrow : Prop :=
  ∀ (x y : Reg) (s : State),
    (decode (BitVec.ofNat 16 (0x8005 + 256 * x.val + 16 * y.val)) = .instr (.subReg x y) ∧
      ∃ t : State, exec (.subReg x y) s = .next t ∧ (x ≠ 15 → readV x t = readV x s - readV y s) ∧
        readV 15 t = (if (readV x s).toNat ≥ (readV y s).toNat then 1 else 0) ∧ OnlyRegsChanged [x, 15] s t) ∧
    (decode (BitVec.ofNat 16 (0x8007 + 256 * x.val + 16 * y.val)) = .instr (.subnReg x y) ∧
      ∃ t : State, exec (.subnReg x y) s = .next t ∧ (x ≠ 15 → readV x t = readV y s - readV x s) ∧
        readV 15 t = (if (readV y s).toNat ≥ (readV x s).toNat then 1 else 0) ∧ OnlyRegsChanged [x, 15] s t)

/-- 42_alu.md R178, R180: 8XY6 leaves VY shifted right by one in VX and bit 0 of VY in VF, 8XYE VY shifted left and bit 7;
VF is last, and VY keeps its value unless it is VX or VF. That VY is the source is decision D24 (log entry 23). -/
def Obligations.ShiftsMoveVyIntoVx : Prop :=
  ∀ (x y : Reg) (s : State),
    (∃ t : State, exec (.shrReg x y) s = .next t ∧ (x ≠ 15 → readV x t = readV y s >>> 1) ∧
      readV 15 t = (if (readV y s).getLsbD 0 then 1 else 0) ∧ OnlyRegsChanged [x, 15] s t) ∧
    ∃ t : State, exec (.shlReg x y) s = .next t ∧ (x ≠ 15 → readV x t = readV y s <<< 1) ∧
      readV 15 t = (if (readV y s).getLsbD 7 then 1 else 0) ∧ OnlyRegsChanged [x, 15] s t

/-- 42_alu.md R181 (the draw as a free input is decision D25; the counter is the model's own, log entry 2): CXNN leaves a
fresh free byte AND NN in VX, never a bit that NN lacks, and changes nothing else but the draw counter. -/
def Obligations.RandomByteIsMasked : Prop :=
  ∀ (x : Reg) (nn : Byte) (s : State), ∃ t : State, exec (.rnd x nn) s = .next t ∧
    (∀ k : Nat, (readV x t).getLsbD k = ((Config.randByte s.draws).getLsbD k && nn.getLsbD k)) ∧
    t.draws = s.draws + 1 ∧ OnlyRegsChanged [x] s { t with draws := s.draws }

/-! ## The index register and memory transfers -/

/-- 43_index_memory.md R200: ANNN sets I to the 12-bit address, changes nothing else and never faults. -/
def Obligations.SetIndexLoadsAddress : Prop :=
  ∀ (nnn : Addr12) (s : State), decode (BitVec.ofNat 16 (0xA000 + nnn.toNat)) = .instr (.ldI nnn) ∧
    ∃ t : State, exec (.ldI nnn) s = .next t ∧ t.i.toNat = nnn.toNat ∧ OnlyIndexChanged s t

/-- 43_index_memory.md R201, R202 (the 16-bit wrap is decision D27, no masking D28, the font parameters D20 and D21; log
entries 24, 25 and 3): FX1E adds VX to I, FX29 sets I to the glyph's address, both modulo 2^16; VF does not change. -/
def Obligations.IndexArithmeticWraps : Prop :=
  ∀ (x : Reg) (s : State),
    (∃ t : State, exec (.addI x) s = .next t ∧ t.i.toNat = (s.i.toNat + (readV x s).toNat) % 65536 ∧
      OnlyIndexChanged s t) ∧
    ∃ t : State, exec (.ldF x) s = .next t ∧
      t.i.toNat = (fontBase + (readV x s).toNat * glyphStride) % 65536 ∧ OnlyIndexChanged s t

/-- 43_index_memory.md R203 (the check before any write is decision D3, log entry 8): with I + 2 in memory, FX33 stores the
hundreds, tens and ones of VX at I, I + 1, I + 2 and changes nothing else, I included. -/
def Obligations.BcdStoresThreeDigits : Prop :=
  ∀ (x : Reg) (s : State), Memory.wf s.mem = true → s.i.toNat + 2 < 4096 →
    ∃ t : State, exec (.ldB x) s = .next t ∧
      (Memory.read t.mem s.i.toNat).toNat = (readV x s).toNat / 100 ∧
      (Memory.read t.mem (s.i.toNat + 1)).toNat = (readV x s).toNat / 10 % 10 ∧
      (Memory.read t.mem (s.i.toNat + 2)).toNat = (readV x s).toNat % 10 ∧
      MemUnchangedOutside s.i.toNat 3 s t ∧ RegsUnchangedExcept [] s t ∧ SpecialsUnchanged s t ∧ t.pc = s.pc ∧
      DevicesUnchanged s t ∧ t.draws = s.draws ∧ t.outcome = none

/-- 43_index_memory.md R204 (decisions D3 and D27, log entries 8 and 24): with I + X in memory, FX55 stores V0 to VX at I
onward, leaves I at I + X + 1 and changes nothing else. -/
def Obligations.BlockStoreWritesRegisters : Prop :=
  ∀ (x : Reg) (s : State), Memory.wf s.mem = true → s.i.toNat + x.val < 4096 →
    ∃ t : State, exec (.storeRegs x) s = .next t ∧
      (∀ k : Reg, k ≤ x → Memory.read t.mem (s.i.toNat + k.val) = readV k s) ∧
      MemUnchangedOutside s.i.toNat (x.val + 1) s t ∧ t.i.toNat = s.i.toNat + x.val + 1 ∧
      RegsUnchangedExcept [] s t ∧ t.sp = s.sp ∧ t.stack = s.stack ∧ t.dt = s.dt ∧ t.st = s.st ∧ t.pc = s.pc ∧
      DevicesUnchanged s t ∧ t.draws = s.draws ∧ t.outcome = none

/-- 43_index_memory.md R205 (decisions D3 and D27, log entries 8 and 24): with I + X in memory, FX65 loads V0 to VX from I
onward, leaves the registers above VX alone and I at I + X + 1, and changes nothing else. -/
def Obligations.BlockLoadReadsRegisters : Prop :=
  ∀ (x : Reg) (s : State), s.i.toNat + x.val < 4096 →
    ∃ t : State, exec (.loadRegs x) s = .next t ∧
      (∀ k : Reg, readV k t = if k ≤ x then Memory.read s.mem (s.i.toNat + k.val) else readV k s) ∧
      t.i.toNat = s.i.toNat + x.val + 1 ∧ t.pc = s.pc ∧ RestUnchanged s t

/-- 20_memory.md R63, 43_index_memory.md R203 to R205 (decisions D1 and D3, log entries 7 and 8): where the last address
lies outside memory, FX33, FX55 and FX65 are bounds faults and change nothing. -/
def Obligations.TransferOutsideMemoryIsBoundsFault : Prop :=
  ∀ (x : Reg) (s : State),
    (4096 ≤ s.i.toNat + 2 → exec (.ldB x) s = .next { s with outcome := some .boundsFault }) ∧
    (4096 ≤ s.i.toNat + x.val → exec (.storeRegs x) s = .next { s with outcome := some .boundsFault }) ∧
    (4096 ≤ s.i.toNat + x.val → exec (.loadRegs x) s = .next { s with outcome := some .boundsFault })

/-- 20_memory.md R72, 70_reset_and_hazards.md R306 (the spec marks both as derived): the bytes FX55 stores are the opcode
the next fetch at that place reads. -/
def Obligations.StoredBytesAreFetched : Prop :=
  ∀ (x k : Reg) (s t : State), Memory.wf s.mem = true → exec (.storeRegs x) s = .next t → t.outcome = none → k < x →
    t.pc.toNat = s.i.toNat + k.val →
    (fetchWord t).toNat = s.v[k.val].toNat * 256 + (s.v[k.val + 1]?.getD 0).toNat

/-! ## The framebuffer unit -/

/-- 44_display.md R220: 00E0 clears every pixel and sets RENDER, even where the framebuffer was clear; nothing else changes
and it never faults. -/
def Obligations.ClearScreenClearsEveryPixel : Prop :=
  ∀ s : State, decode 0x00E0 = .instr .cls ∧ ∃ t : State, exec .cls s = .next t ∧
    (∀ x y : Nat, pixelAt t.fb x y = false) ∧ t.render = true ∧ RegsUnchangedExcept [] s t ∧ SpecialsUnchanged s t ∧
    t.pc = s.pc ∧ t.keys = s.keys ∧ MemUnchanged s t ∧ t.draws = s.draws ∧ t.outcome = none

/-- 44_display.md R221, R222, R223 (the origin before VF is decision D9, unread clipped rows D10, the bit order D11, N = 0
D29; log entries 13 to 16): where the address of every row on the screen lies in memory, DXYN XORs the sprite into the
framebuffer from origin (VX mod 64, VY mod 32), clips at the edges, leaves in VF whether a set sprite bit met a set pixel,
sets RENDER and changes nothing else. -/
def Obligations.DrawXorsSpriteAndReportsCollision : Prop :=
  ∀ (x y : Reg) (n : Fin 16) (s : State),
    (∀ r : Nat, r < n.val → (readV y s).toNat % 32 + r < 32 → s.i.toNat + r < 4096) →
    ∃ t : State, exec (.drw x y n) s = .next t ∧
      (∀ px py : Nat, px < 64 → py < 32 → pixelAt t.fb px py =
        (pixelAt s.fb px py ^^ spriteBitAt s ((readV x s).toNat % 64) ((readV y s).toNat % 32) n.val px py)) ∧
      (readV 15 t = 1 ∨ readV 15 t = 0) ∧
      (readV 15 t = 1 ↔ ∃ px py : Nat, px < 64 ∧ py < 32 ∧ pixelAt s.fb px py = true ∧
        spriteBitAt s ((readV x s).toNat % 64) ((readV y s).toNat % 32) n.val px py = true) ∧
      t.render = true ∧ RegsUnchangedExcept [15] s t ∧ SpecialsUnchanged s t ∧ t.pc = s.pc ∧ t.keys = s.keys ∧
      MemUnchanged s t ∧ t.draws = s.draws ∧ t.outcome = none

/-- 44_display.md R221 and 20_memory.md R63 (decisions D3 and D10, log entries 8 and 14): where the address of some row on
the screen lies outside memory, DXYN is a bounds fault and changes nothing. -/
def Obligations.DrawOutsideMemoryIsBoundsFault : Prop :=
  ∀ (x y : Reg) (n : Fin 16) (s : State) (r : Nat), r < n.val → (readV y s).toNat % 32 + r < 32 →
    4096 ≤ s.i.toNat + r → exec (.drw x y n) s = .next { s with outcome := some .boundsFault }

/-- 44_display.md R223 (the spec marks it as derived; its source's property, 95_test_vectors.md L1 entry 8): drawing the
same sprite twice restores the framebuffer, and the second draw reports a collision exactly when the first turned some
pixel from 0 to 1. X and Y are not F, as the rule says. -/
def Obligations.DrawingTwiceRestoresScreen : Prop :=
  ∀ (x y : Reg) (n : Fin 16) (s t : State), x ≠ 15 → y ≠ 15 → exec (.drw x y n) s = .next t → t.outcome = none →
    ∃ u : State, exec (.drw x y n) t = .next u ∧ u.outcome = none ∧ u.fb = s.fb ∧
      (readV 15 u = 1 ↔ ∃ px py : Nat, px < 64 ∧ py < 32 ∧ pixelAt s.fb px py = false ∧ pixelAt t.fb px py = true)

/-! ## Keys and timers -/

/-- 45_keys_timers.md R240, R241, R246 (a key number of 16 or more is decision D4, log entry 9): EX9E skips when key VX is
pressed, EXA1 when it is not; with VX at least 16 both are bounds faults and change nothing. -/
def Obligations.KeySkipsReadLatch : Prop :=
  ∀ (x : Reg) (s : State),
    (∀ k : Fin 16, (readV x s).toNat = k.val →
      (∃ t : State, exec (.skp x) s = .next t ∧ t.pc = (if s.keys[k.val] = true then s.pc + 2 else s.pc) ∧
        OnlyPcChanged s t) ∧
      ∃ t : State, exec (.sknp x) s = .next t ∧ t.pc = (if s.keys[k.val] = true then s.pc else s.pc + 2) ∧
        OnlyPcChanged s t) ∧
    (16 ≤ (readV x s).toNat →
      exec (.skp x) s = .next { s with outcome := some .boundsFault } ∧
      exec (.sknp x) s = .next { s with outcome := some .boundsFault })

/-- 45_keys_timers.md R242: FX0A with some key pressed leaves the lowest pressed key's number in VX; with none pressed it
takes PC back by two, to A, and changes nothing else. It completes in both cases. -/
def Obligations.KeyWaitTakesLowestKeyOrRepeats : Prop :=
  ∀ (x : Reg) (s : State), decode (BitVec.ofNat 16 (0xF00A + 256 * x.val)) = .instr (.ldVxK x) ∧
    (∀ k : Fin 16, s.keys[k.val] = true → (∀ j : Fin 16, j < k → s.keys[j.val] = false) →
      ∃ t : State, exec (.ldVxK x) s = .next t ∧ (readV x t).toNat = k.val ∧ OnlyRegsChanged [x] s t) ∧
    ((∀ k : Fin 16, s.keys[k.val] = false) →
      ∃ t : State, exec (.ldVxK x) s = .next t ∧ t.pc = s.pc - 2 ∧ OnlyPcChanged s t)

/-- 40_cycle.md R130, 45_keys_timers.md R242: a step that fetches FX0A with no key pressed answers OK and leaves the state
as it was, PC included, so that the next step does the same; at 0xFFE too. -/
def Obligations.KeyWaitStepLeavesStateUnchanged : Prop :=
  ∀ (x : Reg) (s : State), s.pc.toNat + 1 < 4096 → fetchWord s = encode (.ldVxK x) →
    (∀ k : Fin 16, s.keys[k.val] = false) → step s = .next { s with outcome := none }

/-- 45_keys_timers.md R243, R244, R245: FX07 reads DT into VX, FX15 writes DT from VX, FX18 writes ST from VX; nothing else
changes and none faults. -/
def Obligations.TimerInstructions : Prop :=
  ∀ (x : Reg) (s : State),
    (decode (BitVec.ofNat 16 (0xF007 + 256 * x.val)) = .instr (.ldVxDt x) ∧
      ∃ t : State, exec (.ldVxDt x) s = .next t ∧ readV x t = s.dt ∧ OnlyRegsChanged [x] s t) ∧
    (decode (BitVec.ofNat 16 (0xF015 + 256 * x.val)) = .instr (.ldDtVx x) ∧
      ∃ t : State, exec (.ldDtVx x) s = .next t ∧ t.dt = readV x s ∧ t.pc = s.pc ∧ t.i = s.i ∧
        RegsUnchangedExcept [] s t ∧ RestUnchanged s { t with dt := s.dt }) ∧
    (decode (BitVec.ofNat 16 (0xF018 + 256 * x.val)) = .instr (.ldStVx x) ∧
      ∃ t : State, exec (.ldStVx x) s = .next t ∧ t.st = readV x s ∧ t.pc = s.pc ∧ t.i = s.i ∧
        RegsUnchangedExcept [] s t ∧ RestUnchanged s { t with st := s.st })

/-! ## The host interface -/

/-- 60_exceptions.md R271, R272: TICK takes one from each timer that is not zero and changes nothing else; n ticks leave a
timer at its value less n, never below zero, so it reaches zero after exactly as many ticks as its value; SOUND says
whether ST is not zero. -/
def Obligations.TickCountsTimersDown : Prop :=
  (∀ s : State, ∃ t : State, perform .tick s = .next (t, .none) ∧
    t.dt.toNat = s.dt.toNat - 1 ∧ t.st.toNat = s.st.toNat - 1 ∧ t = { s with dt := t.dt, st := t.st }) ∧
  (∀ (n : Nat) (s : State), ∃ t : State, performAll (List.replicate n .tick) s = .next t ∧
    t.dt.toNat = s.dt.toNat - n ∧ t.st.toNat = s.st.toNat - n) ∧
  ∀ s : State, perform .sound s = .next (s, .flag (decide (s.st.toNat ≠ 0)))

/-- 60_exceptions.md R273, R274, R277, R278 (the snapshot layout is decision D12, the times a key may change D18; log
entries 17 and 21): SET_KEYS replaces the latch alone; READ_FB answers 2048 pixels, element 64 y + x that of column x, row
y; READ_STATE changes nothing and answers each of the eleven elements of the state as it stands (decision D33), and two states
it answers alike, with as many random bytes drawn (log entry 2), step alike. -/
def Obligations.HostPortsReadAndSetState : Prop :=
  (∀ (s : State) (ks : Vector Bool 16), perform (.setKeys ks) s = .next ({ s with keys := ks }, .none)) ∧
  (∀ s : State, ∃ l : List Nat, perform .readFb s = .next (s, .pixels l) ∧ l.length = 2048 ∧
    ∀ x y : Nat, x < 64 → y < 32 → l[64 * y + x]? = some (if pixelAt s.fb x y = true then 1 else 0)) ∧
  ∀ s t : State, perform .readState s = .next (s, .state (readState s)) ∧
    (readState s).v = s.v ∧ (readState s).i = s.i ∧ (readState s).pc = s.pc ∧ (readState s).sp = s.sp ∧
    (readState s).stack = s.stack ∧ (readState s).dt = s.dt ∧ (readState s).st = s.st ∧ (readState s).fb = s.fb ∧
    (readState s).render = s.render ∧ (readState s).keys = s.keys ∧ (readState s).mem = s.mem ∧
    (readState s = readState t → s.draws = t.draws → step s = step t)

/-- 60_exceptions.md R278 (decision D33; that the elements come as a list, written in order, is the model's, log entry 33):
WRITE_STATE performs its element writes one after the other, and the write of each of the eleven kinds replaces that element
and no other. Outcome and draw counter, the model's own fields, stay (log entries 1 and 2), and memory keeps its canonical
form (log entry 4). -/
def Obligations.WriteStateReadsBack : Prop :=
  ∀ (s : State) (ws us : List StateWrite), Memory.wf s.mem = true →
    perform (.writeState ws) s = .next (hostWriteState ws s, .none) ∧
    hostWriteState (ws ++ us) s = hostWriteState us (hostWriteState ws s) ∧ hostWriteState [] s = s ∧
    Memory.wf (hostWriteState ws s).mem = true ∧
    (hostWriteState ws s).outcome = s.outcome ∧ (hostWriteState ws s).draws = s.draws ∧
    (∀ w : Word, hostWriteState [.i w] s = { s with i := w } ∧ hostWriteState [.pc w] s = { s with pc := w }) ∧
    (∀ n : Fin 17, hostWriteState [.sp n] s = { s with sp := n }) ∧
    (∀ b : Byte, hostWriteState [.dt b] s = { s with dt := b } ∧ hostWriteState [.st b] s = { s with st := b }) ∧
    (∀ b : Bool, hostWriteState [.render b] s = { s with render := b }) ∧
    (∀ (x : Reg) (b : Byte), ∃ v : Vector Byte 16, hostWriteState [.v x b] s = { s with v := v } ∧
      ∀ r : Reg, v[r.val] = if r = x then b else s.v[r.val]) ∧
    (∀ (k : Fin 16) (w : Word), ∃ st : Vector Word 16, hostWriteState [.stack k w] s = { s with stack := st } ∧
      ∀ j : Fin 16, st[j.val] = if j = k then w else s.stack[j.val]) ∧
    (∀ (k : Fin 16) (b : Bool), ∃ ks : Vector Bool 16, hostWriteState [.key k b] s = { s with keys := ks } ∧
      ∀ j : Fin 16, ks[j.val] = if j = k then b else s.keys[j.val]) ∧
    (∀ (x : Fin 64) (y : Fin 32) (b : Bool), ∃ fb : Framebuffer, hostWriteState [.fb x y b] s = { s with fb := fb } ∧
      ∀ px py : Nat, px < 64 → py < 32 →
        pixelAt fb px py = if px = x.val ∧ py = y.val then b else pixelAt s.fb px py) ∧
    ∀ (a : Fin 4096) (b : Byte), ∃ m : Memory, hostWriteState [.mem a b] s = { s with mem := m } ∧
      ∀ c : Nat, Memory.read m c = if c = a.val then b else Memory.read s.mem c

/-- 70_reset_and_hazards.md R300, R302, R303 (decisions D7, D13 and D19, log entries 5, 11 and 22): LOAD resets; an absent
source and one of more than 3584 bytes leave the reset state; any other is copied from 0x200 on, byte for byte, and no
other byte of memory changes. -/
def Obligations.LoadResetsAndCopiesProgram : Prop :=
  ∀ s : State,
    perform (.load none) s = .next ({ State.reset with draws := s.draws }, .loaded .notFound) ∧
    ∀ bytes : List Byte,
      (3584 < bytes.length →
        perform (.load (some bytes)) s = .next ({ State.reset with draws := s.draws }, .loaded .tooLarge)) ∧
      (bytes.length ≤ 3584 → ∃ t : State, perform (.load (some bytes)) s = .next (t, .loaded .ok) ∧
        t = { State.reset with draws := s.draws, mem := t.mem } ∧ Memory.wf t.mem = true ∧
        (∀ k : Nat, k < bytes.length → some (Memory.read t.mem (0x200 + k)) = bytes[k]?) ∧
        ∀ a : Nat, (a < 0x200 ∨ 0x200 + bytes.length ≤ a) → Memory.read t.mem a = Memory.read State.reset.mem a)
end

