-- ==== Sys2Proof/Laws/Decode.lean ====
section
/-! SUPPORT. The fields of an opcode that was put together from its fields, and the fields of any opcode as numbers. -/

namespace Sys2Proof

/-! ## The fields of any opcode -/

theorem family_val (op : Word) : (fieldsOf op).family.val = op.toNat / 4096 := by
  simp only [fieldsOf, bitsOf, Fin.ofNat]; omega

theorem x_val (op : Word) : (fieldsOf op).x.val = op.toNat / 256 % 16 := by
  simp only [fieldsOf, bitsOf, Fin.ofNat]; omega

theorem y_val (op : Word) : (fieldsOf op).y.val = op.toNat / 16 % 16 := by
  simp only [fieldsOf, bitsOf, Fin.ofNat]; omega

theorem n_val (op : Word) : (fieldsOf op).n.val = op.toNat % 16 := by
  simp only [fieldsOf, bitsOf, Fin.ofNat]; omega

theorem nn_toNat (op : Word) : (fieldsOf op).nn.toNat = op.toNat % 256 := by
  simp only [fieldsOf, bitsOf, BitVec.toNat_ofNat]; omega

theorem nnn_toNat (op : Word) : (fieldsOf op).nnn.toNat = op.toNat % 4096 := by
  simp only [fieldsOf, bitsOf, BitVec.toNat_ofNat]; omega

@[simp] theorem fieldsOf_op (op : Word) : (fieldsOf op).op = op := rfl

/-! ## The number of an opcode put together from fields -/

theorem opcodeXYN_toNat {f : Nat} (hf : f < 16) (x y n : Fin 16) :
    (opcodeXYN f x y n).toNat = f * 4096 + x.val * 256 + y.val * 16 + n.val := by
  simp only [opcodeXYN, trunc16, BitVec.toNat_ofNat]; omega

theorem opcodeXNN_toNat {f nn : Nat} (hf : f < 16) (hn : nn < 256) (x : Fin 16) :
    (opcodeXNN f x nn).toNat = f * 4096 + x.val * 256 + nn := by
  simp only [opcodeXNN, trunc16, BitVec.toNat_ofNat]; omega

theorem opcodeNNN_toNat {f nnn : Nat} (hf : f < 16) (hn : nnn < 4096) :
    (opcodeNNN f nnn).toNat = f * 4096 + nnn := by
  simp only [opcodeNNN, trunc16, BitVec.toNat_ofNat]; omega

/-! ## The fields of an opcode known as a number -/

theorem fieldsOf_xyn {op : Word} {f : Nat} {x y n : Fin 16} (h : op.toNat = f * 4096 + x.val * 256 + y.val * 16 + n.val) :
    (fieldsOf op).family.val = f ∧ (fieldsOf op).x = x ∧ (fieldsOf op).y = y ∧ (fieldsOf op).n = n := by
  refine ⟨?_, Fin.ext ?_, Fin.ext ?_, Fin.ext ?_⟩
  · rw [family_val]; omega
  · rw [x_val]; omega
  · rw [y_val]; omega
  · rw [n_val]; omega

theorem fieldsOf_xnn {op : Word} {f : Nat} {x : Fin 16} {nn : Byte} (h : op.toNat = f * 4096 + x.val * 256 + nn.toNat) :
    (fieldsOf op).family.val = f ∧ (fieldsOf op).x = x ∧ (fieldsOf op).nn = nn := by
  have := nn.isLt
  refine ⟨?_, Fin.ext ?_, BitVec.eq_of_toNat_eq ?_⟩
  · rw [family_val]; omega
  · rw [x_val]; omega
  · rw [nn_toNat]; omega

theorem fieldsOf_nnn {op : Word} {f : Nat} {nnn : Addr12} (h : op.toNat = f * 4096 + nnn.toNat) :
    (fieldsOf op).family.val = f ∧ (fieldsOf op).nnn = nnn := by
  have := nnn.isLt
  refine ⟨?_, BitVec.eq_of_toNat_eq ?_⟩
  · rw [family_val]; omega
  · rw [nnn_toNat]; omega

/-- The secondary selector of families E and F is a fixed byte: its opcode's fields. -/
theorem fieldsOf_xsel {op : Word} {f nn : Nat} {x : Fin 16} (hn : nn < 256) (h : op.toNat = f * 4096 + x.val * 256 + nn) :
    (fieldsOf op).family.val = f ∧ (fieldsOf op).x = x ∧ (fieldsOf op).nn.toNat = nn := by
  refine ⟨?_, Fin.ext ?_, ?_⟩
  · rw [family_val]; omega
  · rw [x_val]; omega
  · rw [nn_toNat]; omega

/-- The bytes of an opcode put it together again (R66). -/
theorem opcodeOfBytes_bytes (op : Word) : opcodeOfBytes (highByte op) (lowByte op) = op := by
  apply BitVec.eq_of_toNat_eq
  simp only [opcodeOfBytes, highByte, lowByte, trunc8, trunc16, BitVec.toNat_ofNat]
  omega

/-! ## The four masks of the opcode map, as numbers (R95) -/

theorem land_disjoint_toNat (a b : Word) (k : Nat) (ha : a.toNat % 2 ^ k = 0) (hb : b.toNat < 2 ^ k) :
    (a ||| b).toNat = a.toNat + b.toNat := by
  rw [BitVec.toNat_or]
  obtain ⟨q, hq⟩ := Nat.dvd_of_mod_eq_zero ha
  rw [hq, Nat.two_pow_add_eq_or_of_lt hb]

theorem land_F000_toNat (op : Word) : (op &&& 0xF000).toNat = op.toNat / 4096 * 4096 := by
  have h : op &&& 0xF000#16 = (op >>> 12) <<< 12 := by ext i hi; simp; interval_cases i <;> simp
  have e : op &&& (0xF000 : Word) = (op >>> 12) <<< 12 := h
  have := op.isLt
  rw [e]; simp only [BitVec.toNat_shiftLeft, BitVec.toNat_ushiftRight, Nat.shiftRight_eq_div_pow, Nat.shiftLeft_eq]; omega

theorem land_low_toNat (op : Word) (k : Nat) (m : Word) (hm : m.toNat = 2 ^ k - 1) :
    (op &&& m).toNat = op.toNat % 2 ^ k := by
  rw [BitVec.toNat_and, hm, Nat.and_two_pow_sub_one_eq_mod]

theorem land_F00F_toNat (op : Word) : (op &&& 0xF00F).toNat = op.toNat / 4096 * 4096 + op.toNat % 16 := by
  have h : op &&& 0xF00F#16 = (op &&& 0xF000) ||| (op &&& 0xF) := by ext i hi; simp; interval_cases i <;> simp
  have e : op &&& 0xF00F = (op &&& 0xF000) ||| (op &&& 0xF) := h
  have l := land_low_toNat op 4 0xF rfl
  rw [e, land_disjoint_toNat _ _ 12 (by rw [land_F000_toNat]; omega) (by rw [l]; omega), land_F000_toNat, l]; norm_num

theorem land_F0FF_toNat (op : Word) : (op &&& 0xF0FF).toNat = op.toNat / 4096 * 4096 + op.toNat % 256 := by
  have h : op &&& 0xF0FF#16 = (op &&& 0xF000) ||| (op &&& 0xFF) := by ext i hi; simp; interval_cases i <;> simp
  have e : op &&& 0xF0FF = (op &&& 0xF000) ||| (op &&& 0xFF) := h
  have l := land_low_toNat op 8 0xFF rfl
  rw [e, land_disjoint_toNat _ _ 12 (by rw [land_F000_toNat]; omega) (by rw [l]; omega), land_F000_toNat, l]; norm_num

theorem land_FFFF (op : Word) : op &&& 0xFFFF = op := by
  have h : op &&& 0xFFFF#16 = op := by ext i hi; simp; interval_cases i <;> simp
  exact h

end Sys2Proof
end

