-- ==== Sys2Proof/Laws/State.lean ====
section
/-! SUPPORT. For each named update of the state, what every field holds after it: one lemma per field. -/

namespace Sys2Proof.Machine

/-! ### writeV -/

@[simp] theorem writeV_v (x : Reg) (b : Byte) (s : State) : (writeV x b s).v = s.v.set x.val b := rfl
@[simp] theorem writeV_i (x : Reg) (b : Byte) (s : State) : (writeV x b s).i = s.i := rfl
@[simp] theorem writeV_pc (x : Reg) (b : Byte) (s : State) : (writeV x b s).pc = s.pc := rfl
@[simp] theorem writeV_sp (x : Reg) (b : Byte) (s : State) : (writeV x b s).sp = s.sp := rfl
@[simp] theorem writeV_stack (x : Reg) (b : Byte) (s : State) : (writeV x b s).stack = s.stack := rfl
@[simp] theorem writeV_dt (x : Reg) (b : Byte) (s : State) : (writeV x b s).dt = s.dt := rfl
@[simp] theorem writeV_st (x : Reg) (b : Byte) (s : State) : (writeV x b s).st = s.st := rfl
@[simp] theorem writeV_fb (x : Reg) (b : Byte) (s : State) : (writeV x b s).fb = s.fb := rfl
@[simp] theorem writeV_render (x : Reg) (b : Byte) (s : State) : (writeV x b s).render = s.render := rfl
@[simp] theorem writeV_keys (x : Reg) (b : Byte) (s : State) : (writeV x b s).keys = s.keys := rfl
@[simp] theorem writeV_mem (x : Reg) (b : Byte) (s : State) : (writeV x b s).mem = s.mem := rfl
@[simp] theorem writeV_outcome (x : Reg) (b : Byte) (s : State) : (writeV x b s).outcome = s.outcome := rfl
@[simp] theorem writeV_draws (x : Reg) (b : Byte) (s : State) : (writeV x b s).draws = s.draws := rfl

/-! ### writeI -/

@[simp] theorem writeI_v (n : Nat) (s : State) : (writeI n s).v = s.v := rfl
@[simp] theorem writeI_i (n : Nat) (s : State) : (writeI n s).i = trunc16 n := rfl
@[simp] theorem writeI_pc (n : Nat) (s : State) : (writeI n s).pc = s.pc := rfl
@[simp] theorem writeI_sp (n : Nat) (s : State) : (writeI n s).sp = s.sp := rfl
@[simp] theorem writeI_stack (n : Nat) (s : State) : (writeI n s).stack = s.stack := rfl
@[simp] theorem writeI_dt (n : Nat) (s : State) : (writeI n s).dt = s.dt := rfl
@[simp] theorem writeI_st (n : Nat) (s : State) : (writeI n s).st = s.st := rfl
@[simp] theorem writeI_fb (n : Nat) (s : State) : (writeI n s).fb = s.fb := rfl
@[simp] theorem writeI_render (n : Nat) (s : State) : (writeI n s).render = s.render := rfl
@[simp] theorem writeI_keys (n : Nat) (s : State) : (writeI n s).keys = s.keys := rfl
@[simp] theorem writeI_mem (n : Nat) (s : State) : (writeI n s).mem = s.mem := rfl
@[simp] theorem writeI_outcome (n : Nat) (s : State) : (writeI n s).outcome = s.outcome := rfl
@[simp] theorem writeI_draws (n : Nat) (s : State) : (writeI n s).draws = s.draws := rfl

/-! ### jumpTo -/

@[simp] theorem jumpTo_v (n : Nat) (s : State) : (jumpTo n s).v = s.v := rfl
@[simp] theorem jumpTo_i (n : Nat) (s : State) : (jumpTo n s).i = s.i := rfl
@[simp] theorem jumpTo_pc (n : Nat) (s : State) : (jumpTo n s).pc = trunc16 n := rfl
@[simp] theorem jumpTo_sp (n : Nat) (s : State) : (jumpTo n s).sp = s.sp := rfl
@[simp] theorem jumpTo_stack (n : Nat) (s : State) : (jumpTo n s).stack = s.stack := rfl
@[simp] theorem jumpTo_dt (n : Nat) (s : State) : (jumpTo n s).dt = s.dt := rfl
@[simp] theorem jumpTo_st (n : Nat) (s : State) : (jumpTo n s).st = s.st := rfl
@[simp] theorem jumpTo_fb (n : Nat) (s : State) : (jumpTo n s).fb = s.fb := rfl
@[simp] theorem jumpTo_render (n : Nat) (s : State) : (jumpTo n s).render = s.render := rfl
@[simp] theorem jumpTo_keys (n : Nat) (s : State) : (jumpTo n s).keys = s.keys := rfl
@[simp] theorem jumpTo_mem (n : Nat) (s : State) : (jumpTo n s).mem = s.mem := rfl
@[simp] theorem jumpTo_outcome (n : Nat) (s : State) : (jumpTo n s).outcome = s.outcome := rfl
@[simp] theorem jumpTo_draws (n : Nat) (s : State) : (jumpTo n s).draws = s.draws := rfl

/-! ### advancePc -/

@[simp] theorem advancePc_v (s : State) : (advancePc s).v = s.v := rfl
@[simp] theorem advancePc_i (s : State) : (advancePc s).i = s.i := rfl
@[simp] theorem advancePc_pc (s : State) : (advancePc s).pc = s.pc + 2 := rfl
@[simp] theorem advancePc_sp (s : State) : (advancePc s).sp = s.sp := rfl
@[simp] theorem advancePc_stack (s : State) : (advancePc s).stack = s.stack := rfl
@[simp] theorem advancePc_dt (s : State) : (advancePc s).dt = s.dt := rfl
@[simp] theorem advancePc_st (s : State) : (advancePc s).st = s.st := rfl
@[simp] theorem advancePc_fb (s : State) : (advancePc s).fb = s.fb := rfl
@[simp] theorem advancePc_render (s : State) : (advancePc s).render = s.render := rfl
@[simp] theorem advancePc_keys (s : State) : (advancePc s).keys = s.keys := rfl
@[simp] theorem advancePc_mem (s : State) : (advancePc s).mem = s.mem := rfl
@[simp] theorem advancePc_outcome (s : State) : (advancePc s).outcome = s.outcome := rfl
@[simp] theorem advancePc_draws (s : State) : (advancePc s).draws = s.draws := rfl

/-! ### takeFault -/

@[simp] theorem takeFault_v (f : Fault) (s : State) : (takeFault f s).v = s.v := rfl
@[simp] theorem takeFault_i (f : Fault) (s : State) : (takeFault f s).i = s.i := rfl
@[simp] theorem takeFault_pc (f : Fault) (s : State) : (takeFault f s).pc = s.pc := rfl
@[simp] theorem takeFault_sp (f : Fault) (s : State) : (takeFault f s).sp = s.sp := rfl
@[simp] theorem takeFault_stack (f : Fault) (s : State) : (takeFault f s).stack = s.stack := rfl
@[simp] theorem takeFault_dt (f : Fault) (s : State) : (takeFault f s).dt = s.dt := rfl
@[simp] theorem takeFault_st (f : Fault) (s : State) : (takeFault f s).st = s.st := rfl
@[simp] theorem takeFault_fb (f : Fault) (s : State) : (takeFault f s).fb = s.fb := rfl
@[simp] theorem takeFault_render (f : Fault) (s : State) : (takeFault f s).render = s.render := rfl
@[simp] theorem takeFault_keys (f : Fault) (s : State) : (takeFault f s).keys = s.keys := rfl
@[simp] theorem takeFault_mem (f : Fault) (s : State) : (takeFault f s).mem = s.mem := rfl
@[simp] theorem takeFault_outcome (f : Fault) (s : State) : (takeFault f s).outcome = some f := rfl
@[simp] theorem takeFault_draws (f : Fault) (s : State) : (takeFault f s).draws = s.draws := rfl

/-! ### skipIf -/

@[simp] theorem skipIf_v (c : Bool) (s : State) : (skipIf c s).v = s.v := rfl
@[simp] theorem skipIf_i (c : Bool) (s : State) : (skipIf c s).i = s.i := rfl
@[simp] theorem skipIf_pc (c : Bool) (s : State) : (skipIf c s).pc = if c then s.pc + 2 else s.pc := rfl
@[simp] theorem skipIf_sp (c : Bool) (s : State) : (skipIf c s).sp = s.sp := rfl
@[simp] theorem skipIf_stack (c : Bool) (s : State) : (skipIf c s).stack = s.stack := rfl
@[simp] theorem skipIf_dt (c : Bool) (s : State) : (skipIf c s).dt = s.dt := rfl
@[simp] theorem skipIf_st (c : Bool) (s : State) : (skipIf c s).st = s.st := rfl
@[simp] theorem skipIf_fb (c : Bool) (s : State) : (skipIf c s).fb = s.fb := rfl
@[simp] theorem skipIf_render (c : Bool) (s : State) : (skipIf c s).render = s.render := rfl
@[simp] theorem skipIf_keys (c : Bool) (s : State) : (skipIf c s).keys = s.keys := rfl
@[simp] theorem skipIf_mem (c : Bool) (s : State) : (skipIf c s).mem = s.mem := rfl
@[simp] theorem skipIf_outcome (c : Bool) (s : State) : (skipIf c s).outcome = s.outcome := rfl
@[simp] theorem skipIf_draws (c : Bool) (s : State) : (skipIf c s).draws = s.draws := rfl

/-! ### tickTimers -/

@[simp] theorem tickTimers_v (s : State) : (tickTimers s).v = s.v := rfl
@[simp] theorem tickTimers_i (s : State) : (tickTimers s).i = s.i := rfl
@[simp] theorem tickTimers_pc (s : State) : (tickTimers s).pc = s.pc := rfl
@[simp] theorem tickTimers_sp (s : State) : (tickTimers s).sp = s.sp := rfl
@[simp] theorem tickTimers_stack (s : State) : (tickTimers s).stack = s.stack := rfl
@[simp] theorem tickTimers_dt (s : State) : (tickTimers s).dt = countDown s.dt := rfl
@[simp] theorem tickTimers_st (s : State) : (tickTimers s).st = countDown s.st := rfl
@[simp] theorem tickTimers_fb (s : State) : (tickTimers s).fb = s.fb := rfl
@[simp] theorem tickTimers_render (s : State) : (tickTimers s).render = s.render := rfl
@[simp] theorem tickTimers_keys (s : State) : (tickTimers s).keys = s.keys := rfl
@[simp] theorem tickTimers_mem (s : State) : (tickTimers s).mem = s.mem := rfl
@[simp] theorem tickTimers_outcome (s : State) : (tickTimers s).outcome = s.outcome := rfl
@[simp] theorem tickTimers_draws (s : State) : (tickTimers s).draws = s.draws := rfl

/-! ### writeFlag -/

@[simp] theorem writeFlag_v (c : Bool) (s : State) : (writeFlag c s).v = s.v.set 15 (flagByte c) := rfl
@[simp] theorem writeFlag_i (c : Bool) (s : State) : (writeFlag c s).i = s.i := rfl
@[simp] theorem writeFlag_pc (c : Bool) (s : State) : (writeFlag c s).pc = s.pc := rfl
@[simp] theorem writeFlag_sp (c : Bool) (s : State) : (writeFlag c s).sp = s.sp := rfl
@[simp] theorem writeFlag_stack (c : Bool) (s : State) : (writeFlag c s).stack = s.stack := rfl
@[simp] theorem writeFlag_dt (c : Bool) (s : State) : (writeFlag c s).dt = s.dt := rfl
@[simp] theorem writeFlag_st (c : Bool) (s : State) : (writeFlag c s).st = s.st := rfl
@[simp] theorem writeFlag_fb (c : Bool) (s : State) : (writeFlag c s).fb = s.fb := rfl
@[simp] theorem writeFlag_render (c : Bool) (s : State) : (writeFlag c s).render = s.render := rfl
@[simp] theorem writeFlag_keys (c : Bool) (s : State) : (writeFlag c s).keys = s.keys := rfl
@[simp] theorem writeFlag_mem (c : Bool) (s : State) : (writeFlag c s).mem = s.mem := rfl
@[simp] theorem writeFlag_outcome (c : Bool) (s : State) : (writeFlag c s).outcome = s.outcome := rfl
@[simp] theorem writeFlag_draws (c : Bool) (s : State) : (writeFlag c s).draws = s.draws := rfl

/-! ### writeResultAndFlag -/

@[simp] theorem writeResultAndFlag_v (x : Reg) (b : Byte) (c : Bool) (s : State) : (writeResultAndFlag x b c s).v = (s.v.set x.val b).set 15 (flagByte c) := rfl
@[simp] theorem writeResultAndFlag_i (x : Reg) (b : Byte) (c : Bool) (s : State) : (writeResultAndFlag x b c s).i = s.i := rfl
@[simp] theorem writeResultAndFlag_pc (x : Reg) (b : Byte) (c : Bool) (s : State) : (writeResultAndFlag x b c s).pc = s.pc := rfl
@[simp] theorem writeResultAndFlag_sp (x : Reg) (b : Byte) (c : Bool) (s : State) : (writeResultAndFlag x b c s).sp = s.sp := rfl
@[simp] theorem writeResultAndFlag_stack (x : Reg) (b : Byte) (c : Bool) (s : State) : (writeResultAndFlag x b c s).stack = s.stack := rfl
@[simp] theorem writeResultAndFlag_dt (x : Reg) (b : Byte) (c : Bool) (s : State) : (writeResultAndFlag x b c s).dt = s.dt := rfl
@[simp] theorem writeResultAndFlag_st (x : Reg) (b : Byte) (c : Bool) (s : State) : (writeResultAndFlag x b c s).st = s.st := rfl
@[simp] theorem writeResultAndFlag_fb (x : Reg) (b : Byte) (c : Bool) (s : State) : (writeResultAndFlag x b c s).fb = s.fb := rfl
@[simp] theorem writeResultAndFlag_render (x : Reg) (b : Byte) (c : Bool) (s : State) : (writeResultAndFlag x b c s).render = s.render := rfl
@[simp] theorem writeResultAndFlag_keys (x : Reg) (b : Byte) (c : Bool) (s : State) : (writeResultAndFlag x b c s).keys = s.keys := rfl
@[simp] theorem writeResultAndFlag_mem (x : Reg) (b : Byte) (c : Bool) (s : State) : (writeResultAndFlag x b c s).mem = s.mem := rfl
@[simp] theorem writeResultAndFlag_outcome (x : Reg) (b : Byte) (c : Bool) (s : State) : (writeResultAndFlag x b c s).outcome = s.outcome := rfl
@[simp] theorem writeResultAndFlag_draws (x : Reg) (b : Byte) (c : Bool) (s : State) : (writeResultAndFlag x b c s).draws = s.draws := rfl


/-! ### postCheck -/

@[simp] theorem postCheck_v (s : State) : (postCheck s).v = s.v := by
  unfold postCheck; split <;> rfl
@[simp] theorem postCheck_i (s : State) : (postCheck s).i = s.i := by
  unfold postCheck; split <;> rfl
@[simp] theorem postCheck_sp (s : State) : (postCheck s).sp = s.sp := by
  unfold postCheck; split <;> rfl
@[simp] theorem postCheck_stack (s : State) : (postCheck s).stack = s.stack := by
  unfold postCheck; split <;> rfl
@[simp] theorem postCheck_dt (s : State) : (postCheck s).dt = s.dt := by
  unfold postCheck; split <;> rfl
@[simp] theorem postCheck_st (s : State) : (postCheck s).st = s.st := by
  unfold postCheck; split <;> rfl
@[simp] theorem postCheck_fb (s : State) : (postCheck s).fb = s.fb := by
  unfold postCheck; split <;> rfl
@[simp] theorem postCheck_render (s : State) : (postCheck s).render = s.render := by
  unfold postCheck; split <;> rfl
@[simp] theorem postCheck_keys (s : State) : (postCheck s).keys = s.keys := by
  unfold postCheck; split <;> rfl
@[simp] theorem postCheck_mem (s : State) : (postCheck s).mem = s.mem := by
  unfold postCheck; split <;> rfl
@[simp] theorem postCheck_draws (s : State) : (postCheck s).draws = s.draws := by
  unfold postCheck; split <;> rfl

/-! ### withFetchWord -/

@[simp] theorem withFetchWord_v (s : State) (n w : Nat) : (s.withFetchWord n w).v = s.v := rfl
@[simp] theorem withFetchWord_i (s : State) (n w : Nat) : (s.withFetchWord n w).i = s.i := rfl
@[simp] theorem withFetchWord_pc (s : State) (n w : Nat) : (s.withFetchWord n w).pc = s.pc := rfl
@[simp] theorem withFetchWord_sp (s : State) (n w : Nat) : (s.withFetchWord n w).sp = s.sp := rfl
@[simp] theorem withFetchWord_stack (s : State) (n w : Nat) : (s.withFetchWord n w).stack = s.stack := rfl
@[simp] theorem withFetchWord_dt (s : State) (n w : Nat) : (s.withFetchWord n w).dt = s.dt := rfl
@[simp] theorem withFetchWord_st (s : State) (n w : Nat) : (s.withFetchWord n w).st = s.st := rfl
@[simp] theorem withFetchWord_fb (s : State) (n w : Nat) : (s.withFetchWord n w).fb = s.fb := rfl
@[simp] theorem withFetchWord_render (s : State) (n w : Nat) : (s.withFetchWord n w).render = s.render := rfl
@[simp] theorem withFetchWord_keys (s : State) (n w : Nat) : (s.withFetchWord n w).keys = s.keys := rfl
@[simp] theorem withFetchWord_outcome (s : State) (n w : Nat) : (s.withFetchWord n w).outcome = s.outcome := rfl
@[simp] theorem withFetchWord_draws (s : State) (n w : Nat) : (s.withFetchWord n w).draws = s.draws := rfl

/-! ### loadV -/

/-- A block load changes no field but the registers. -/
theorem foldl_writeV_eq (m : Memory) (a : Reg → Nat) (ks : List Reg) (s : State) :
    ks.foldl (fun t k => writeV k (Memory.read m (a k)) t) s =
      { s with v := (ks.foldl (fun t k => writeV k (Memory.read m (a k)) t) s).v } := by
  induction ks generalizing s with
  | nil => rfl
  | cons k ks ih => rw [List.foldl_cons, ih]; rfl

theorem loadV_eq (s : State) (ks : List Reg) : loadV s ks = { s with v := (loadV s ks).v } :=
  foldl_writeV_eq s.mem (fun k => dataAddr s k.val) ks s

@[simp] theorem loadV_i (s : State) (ks : List Reg) : (loadV s ks).i = s.i := by rw [loadV_eq]
@[simp] theorem loadV_pc (s : State) (ks : List Reg) : (loadV s ks).pc = s.pc := by rw [loadV_eq]
@[simp] theorem loadV_sp (s : State) (ks : List Reg) : (loadV s ks).sp = s.sp := by rw [loadV_eq]
@[simp] theorem loadV_stack (s : State) (ks : List Reg) : (loadV s ks).stack = s.stack := by rw [loadV_eq]
@[simp] theorem loadV_dt (s : State) (ks : List Reg) : (loadV s ks).dt = s.dt := by rw [loadV_eq]
@[simp] theorem loadV_st (s : State) (ks : List Reg) : (loadV s ks).st = s.st := by rw [loadV_eq]
@[simp] theorem loadV_fb (s : State) (ks : List Reg) : (loadV s ks).fb = s.fb := by rw [loadV_eq]
@[simp] theorem loadV_render (s : State) (ks : List Reg) : (loadV s ks).render = s.render := by rw [loadV_eq]
@[simp] theorem loadV_keys (s : State) (ks : List Reg) : (loadV s ks).keys = s.keys := by rw [loadV_eq]
@[simp] theorem loadV_mem (s : State) (ks : List Reg) : (loadV s ks).mem = s.mem := by rw [loadV_eq]
@[simp] theorem loadV_outcome (s : State) (ks : List Reg) : (loadV s ks).outcome = s.outcome := by rw [loadV_eq]
@[simp] theorem loadV_draws (s : State) (ks : List Reg) : (loadV s ks).draws = s.draws := by rw [loadV_eq]

end Sys2Proof.Machine
end

