-- ==== Sys2Proof/Laws/Regs.lean ====
section
/-! SUPPORT. The V registers: reading after writing, the flag written last, the block of registers V0 to VX. -/

namespace Sys2Proof.Machine

theorem readV_writeV (r x : Reg) (b : Byte) (s : State) : readV r (writeV x b s) = if r = x then b else readV r s := by
  simp only [readV, writeV_v, Vector.getElem_set, Fin.ext_iff, eq_comm]

@[simp] theorem readV_writeV_same (x : Reg) (b : Byte) (s : State) : readV x (writeV x b s) = b := by
  simp [readV_writeV]

theorem readV_writeV_ne {r x : Reg} (h : r ≠ x) (b : Byte) (s : State) : readV r (writeV x b s) = readV r s := by
  simp [readV_writeV, h]

@[simp] theorem readV_writeFlag (c : Bool) (s : State) : readV 15 (writeFlag c s) = flagByte c :=
  readV_writeV_same regF (flagByte c) s

theorem readV_writeFlag_ne {r : Reg} (h : r ≠ 15) (c : Bool) (s : State) : readV r (writeFlag c s) = readV r s :=
  readV_writeV_ne h (flagByte c) s

@[simp] theorem readV_writeResultAndFlag (x : Reg) (b : Byte) (c : Bool) (s : State) :
    readV 15 (writeResultAndFlag x b c s) = flagByte c := readV_writeFlag c _

theorem readV_writeResultAndFlag_result {x : Reg} (h : x ≠ 15) (b : Byte) (c : Bool) (s : State) :
    readV x (writeResultAndFlag x b c s) = b := by
  rw [writeResultAndFlag, readV_writeFlag_ne h, readV_writeV_same]

theorem readV_writeResultAndFlag_ne {r x : Reg} (hx : r ≠ x) (hf : r ≠ 15) (b : Byte) (c : Bool) (s : State) :
    readV r (writeResultAndFlag x b c s) = readV r s := by
  rw [writeResultAndFlag, readV_writeFlag_ne hf, readV_writeV_ne hx]

/-- Two states with the same registers read the same. -/
theorem readV_congr {s t : State} (h : t.v = s.v) (r : Reg) : readV r t = readV r s := by simp [readV, h]

theorem mem_blockRegs (x k : Reg) : k ∈ blockRegs x ↔ k ≤ x := by
  simp [blockRegs]

/-- After a block load a listed register holds its byte of memory, any other is unchanged. -/
theorem readV_foldl_writeV (f : Reg → Byte) (ks : List Reg) (s : State) (r : Reg) :
    readV r (ks.foldl (fun t k => writeV k (f k) t) s) = if r ∈ ks then f r else readV r s := by
  induction ks generalizing s with
  | nil => simp
  | cons k ks ih =>
    rw [List.foldl_cons, ih, readV_writeV]
    by_cases h : r = k
    · subst h; simp
    · simp [h]

theorem readV_loadV (s : State) (ks : List Reg) (r : Reg) :
    readV r (loadV s ks) = if r ∈ ks then Memory.read s.mem (s.i.toNat + r.val) else readV r s :=
  readV_foldl_writeV (fun k => Memory.read s.mem (dataAddr s k.val)) ks s r

end Sys2Proof.Machine
end

