-- ==== Sys2Proof/Laws/Memory.lean ====
section
/-! SUPPORT. Memory: every write keeps the canonical form, a read after a write, a run of writes. -/

namespace Sys2Proof.Machine

theorem resetByte_of_le {a : Nat} (h : 0x200 ≤ a) : resetByte a = 0 := by
  unfold resetByte; rw [if_pos h]

theorem resetByte_of_no_font (h : fontPresent = false) (a : Nat) : resetByte a = 0 := by
  unfold resetByte; simp [h]

theorem glyphStride_le (h : fontPresent = true) : glyphStride ≤ 32 := by
  unfold glyphStride; rw [if_pos h]; omega

/-- R7's constraint on the font. -/
theorem font_fits (h : fontPresent = true) : fontBase + 16 * glyphStride ≤ 0x200 := by
  have hs := glyphStride_le h
  have : fontBase ≤ Config.programStart - 16 * glyphStride := by
    unfold fontBase; rw [if_pos h]; exact Nat.le_of_lt_succ (Nat.mod_lt _ (Nat.succ_pos _))
  simp only [Config.programStart] at this
  omega

theorem resetByte_font (h : fontPresent = true) {k : Nat} (hk : k < 16 * glyphStride) :
    resetByte (fontBase + k) = fontData k := by
  have hf := font_fits h
  unfold resetByte
  rw [if_neg (by simp only [Config.programStart]; omega), if_pos (by simp [h, hk])]
  congr 1; omega

theorem resetByte_outside_font {a : Nat} (h : a < fontBase ∨ fontBase + 16 * glyphStride ≤ a) : resetByte a = 0 := by
  unfold resetByte
  split
  · rfl
  · rw [if_neg (by simp; omega)]

/-! ## Reading -/

@[simp] theorem read_nil (a : Nat) : Memory.read [] a = resetByte a := rfl

theorem read_cell (k : Nat) (c : Byte) (rest : Memory) (a : Nat) :
    Memory.read ((k, c) :: rest) a = if k = a then c else Memory.read rest a := rfl

/-- Below every listed address, memory reads as reset left it. -/
theorem read_below {low a : Nat} {m : Memory} (h : Memory.wfAbove low m = true) (ha : a < low) :
    Memory.read m a = resetByte a := by
  induction m generalizing low with
  | nil => rfl
  | cons cell rest ih =>
    obtain ⟨k, c⟩ := cell
    simp only [Memory.wfAbove, Bool.and_eq_true, decide_eq_true_eq] at h
    rw [read_cell, if_neg (by omega)]
    exact ih h.2 (by omega)

theorem read_cons (a : Nat) (b : Byte) (rest : Memory) (c : Nat)
    (h : Memory.wfAbove (a + 1) rest = true) :
    Memory.read (Memory.cons a b rest) c = if c = a then b else Memory.read rest c := by
  unfold Memory.cons
  by_cases hb : b = resetByte a
  · rw [if_pos hb]
    by_cases hc : c = a
    · rw [if_pos hc, hc, read_below h (by omega), hb]
    · rw [if_neg hc]
  · rw [if_neg hb, read_cell]
    simp only [eq_comm]

/-! ## The canonical form -/

theorem wfAbove_mono {low low' : Nat} {m : Memory} (h : Memory.wfAbove low m = true) (hl : low' ≤ low) :
    Memory.wfAbove low' m = true := by
  cases m with
  | nil => rfl
  | cons cell rest =>
    simp only [Memory.wfAbove, Bool.and_eq_true, decide_eq_true_eq] at h ⊢
    exact ⟨⟨⟨by omega, h.1.1.2⟩, h.1.2⟩, h.2⟩

theorem wfAbove_cons {low a : Nat} {b : Byte} {rest : Memory} (hl : low ≤ a) (ha : a < 4096)
    (h : Memory.wfAbove (a + 1) rest = true) : Memory.wfAbove low (Memory.cons a b rest) = true := by
  unfold Memory.cons
  by_cases hb : b = resetByte a
  · rw [if_pos hb]; exact wfAbove_mono h (by omega)
  · rw [if_neg hb]
    simp only [Memory.wfAbove, Bool.and_eq_true, decide_eq_true_eq]
    exact ⟨⟨⟨hl, ha⟩, hb⟩, h⟩

theorem wfAbove_insert {low a : Nat} {b : Byte} {m : Memory} (hl : low ≤ a) (ha : a < 4096)
    (h : Memory.wfAbove low m = true) : Memory.wfAbove low (Memory.insert m a b) = true := by
  induction m generalizing low with
  | nil => exact wfAbove_cons hl ha rfl
  | cons cell rest ih =>
    obtain ⟨k, c⟩ := cell
    have h' := h
    simp only [Memory.wfAbove, Bool.and_eq_true, decide_eq_true_eq] at h'
    unfold Memory.insert
    split
    · refine wfAbove_cons hl ha ?_
      simp only [Memory.wfAbove, Bool.and_eq_true, decide_eq_true_eq]
      exact ⟨⟨⟨by omega, h'.1.1.2⟩, h'.1.2⟩, h'.2⟩
    · split
      · exact wfAbove_cons hl ha (by subst a; exact h'.2)
      · simp only [Memory.wfAbove, Bool.and_eq_true, decide_eq_true_eq]
        exact ⟨⟨⟨h'.1.1.1, h'.1.1.2⟩, h'.1.2⟩, ih (by omega) h'.2⟩

theorem wf_nil : Memory.wf [] = true := rfl

theorem wf_write {m : Memory} (h : Memory.wf m = true) (a : Nat) (b : Byte) :
    Memory.wf (Memory.write m a b) = true := by
  unfold Memory.write
  split
  · exact wfAbove_insert (Nat.zero_le _) (by assumption) h
  · exact h

theorem wf_writeAll {m : Memory} (h : Memory.wf m = true) (cells : List (Nat × Byte)) :
    Memory.wf (Memory.writeAll m cells) = true := by
  unfold Memory.writeAll
  induction cells generalizing m with
  | nil => exact h
  | cons c cs ih => exact ih (wf_write h c.1 c.2)

theorem wf_writeBytes {m : Memory} (h : Memory.wf m = true) (a : Nat) (bytes : List Byte) :
    Memory.wf (Memory.writeBytes m a bytes) = true := by
  induction bytes generalizing m a with
  | nil => exact h
  | cons b bs ih => exact ih (wf_write h a b) (a + 1)

/-! ## Reading after writing -/

theorem read_insert {low a : Nat} {b : Byte} {m : Memory} (h : Memory.wfAbove low m = true) (c : Nat) :
    Memory.read (Memory.insert m a b) c = if c = a then b else Memory.read m c := by
  induction m generalizing low with
  | nil => exact read_cons a b [] c rfl
  | cons cell rest ih =>
    obtain ⟨k, d⟩ := cell
    have h' := h
    simp only [Memory.wfAbove, Bool.and_eq_true, decide_eq_true_eq] at h'
    unfold Memory.insert
    split
    · refine read_cons a b _ c ?_
      simp only [Memory.wfAbove, Bool.and_eq_true, decide_eq_true_eq]
      exact ⟨⟨⟨by omega, h'.1.1.2⟩, h'.1.2⟩, h'.2⟩
    · split
      · rename_i _ hk
        subst hk
        rw [read_cons a b rest c h'.2, read_cell]
        by_cases hc : c = a
        · simp [hc]
        · simp [hc, Ne.symm hc]
      · rw [read_cell, read_cell, ih h'.2]
        by_cases hk : k = c
        · subst hk
          rw [if_pos rfl, if_pos rfl, if_neg (by omega)]
        · rw [if_neg hk, if_neg hk]

theorem read_write_spec {m : Memory} (h : Memory.wf m = true) (a : Nat) (b : Byte) (c : Nat) :
    Memory.read (Memory.write m a b) c = if c = a ∧ a < 4096 then b else Memory.read m c := by
  unfold Memory.write
  by_cases ha : a < 4096
  · rw [if_pos ha, read_insert h]; simp [ha]
  · rw [if_neg ha, if_neg (by omega)]

/-- A byte whose address no write of the run names is unchanged. -/
theorem read_writeAll_of_not_mem {m : Memory} (h : Memory.wf m = true) (cells : List (Nat × Byte)) {c : Nat}
    (hc : ∀ p ∈ cells, c ≠ p.1) : Memory.read (Memory.writeAll m cells) c = Memory.read m c := by
  unfold Memory.writeAll
  induction cells generalizing m with
  | nil => rfl
  | cons p ps ih =>
    rw [List.foldl_cons, ih (wf_write h p.1 p.2) (fun q hq => hc q (List.mem_cons_of_mem _ hq)), read_write_spec h,
      if_neg (fun hcp => hc p List.mem_cons_self hcp.1)]

/-- A run that writes `f k` at `a + k` for distinct k inside memory: each of those bytes reads what was written. -/
theorem read_writeAll_map {κ : Type} {m : Memory} (h : Memory.wf m = true) (ks : List κ) (addr : κ → Nat) (f : κ → Byte)
    (hinj : ∀ k ∈ ks, ∀ j ∈ ks, addr k = addr j → f k = f j) (hlt : ∀ k ∈ ks, addr k < 4096) {k : κ} (hk : k ∈ ks) :
    Memory.read (Memory.writeAll m (ks.map fun k => (addr k, f k))) (addr k) = f k := by
  induction ks generalizing m k with
  | nil => cases hk
  | cons j js ih =>
    have step : Memory.writeAll m ((j :: js).map fun k => (addr k, f k)) =
        Memory.writeAll (Memory.write m (addr j) (f j)) (js.map fun k => (addr k, f k)) := rfl
    rw [step]
    by_cases hmem : ∃ q ∈ js, addr q = addr k
    · obtain ⟨q, hq, hqa⟩ := hmem
      rw [← hqa, ih (wf_write h _ _) (fun a ha b hb => hinj a (List.mem_cons_of_mem _ ha) b (List.mem_cons_of_mem _ hb))
        (fun a ha => hlt a (List.mem_cons_of_mem _ ha)) hq]
      exact hinj q (List.mem_cons_of_mem _ hq) k hk hqa
    · push Not at hmem
      rw [read_writeAll_of_not_mem (wf_write h _ _) _ (by
        intro p hp
        obtain ⟨q, hq, rfl⟩ := List.mem_map.mp hp
        exact fun e => hmem q hq e.symm), read_write_spec h]
      have : k = j := (List.mem_cons.mp hk).resolve_right fun hkj => hmem k hkj rfl
      subst this
      rw [if_pos ⟨rfl, hlt k hk⟩]

/-- Bytes written one after another from `a`, all inside memory: each reads back, every other address reads as before. -/
theorem read_writeBytes {m : Memory} (h : Memory.wf m = true) (a : Nat) (bytes : List Byte)
    (hlen : a + bytes.length ≤ 4096) (c : Nat) :
    Memory.read (Memory.writeBytes m a bytes) c =
      if c < a then Memory.read m c else (bytes[c - a]?).getD (Memory.read m c) := by
  induction bytes generalizing m a with
  | nil => simp [Memory.writeBytes]
  | cons b bs ih =>
    simp only [List.length_cons] at hlen
    rw [Memory.writeBytes, ih (wf_write h a b) (a + 1) (by omega), read_write_spec h]
    by_cases hc : c < a
    · rw [if_pos (by omega), if_pos hc, if_neg (by omega)]
    · by_cases he : c = a
      · subst he; rw [if_pos (by omega), if_pos ⟨rfl, by omega⟩, if_neg (by omega)]; simp
      · rw [if_neg (by omega), if_neg hc, if_neg (by omega), show c - a = (c - (a + 1)) + 1 by omega]
        simp

end Sys2Proof.Machine
end

