-- ==== Sys2Proof/Laws/Ops.lean ====
section
/-! SUPPORT. What the shared operations answer, said once: completing, taking a fault, the post-execute check, the bounds
check, and the two ways every instruction ends. -/

namespace Sys2Proof.Machine

theorem complete_eq (s : State) : complete s = .next { s with outcome := none } := rfl

theorem raise_eq (f : Fault) (s : State) : raise f s = .next { s with outcome := some f } := rfl

theorem next_inj {s t : State} : (Host.Outcome.next s : Result) = .next t ↔ s = t :=
  ⟨fun h => Host.Outcome.next.inj h, fun h => h ▸ rfl⟩

theorem complete_eq_next {s t : State} : complete s = .next t ↔ { s with outcome := none } = t := next_inj

theorem raise_eq_next {f : Fault} {s t : State} : raise f s = .next t ↔ { s with outcome := some f } = t := next_inj

theorem afterExecute_next (s : State) : afterExecute (.next s) = .next (postCheck s) := rfl

/-- PC in memory: the post-execute check does nothing. -/
theorem postCheck_of_lt {s : State} (h : s.pc.toNat < 4096) : postCheck s = s := by
  unfold postCheck; rw [if_neg (by simp only [Config.memSize]; omega)]

/-- PC outside memory: back to 0x200, and PC_OVERFLOW unless the instruction faulted. -/
theorem postCheck_of_le {s : State} (h : 4096 ≤ s.pc.toNat) :
    postCheck s = { s with pc := 0x200, outcome := s.outcome.or (some .pcOverflow) } := by
  unfold postCheck; rw [if_pos h]; rfl

theorem postCheck_pc_lt (s : State) : (postCheck s).pc.toNat < 4096 := by
  by_cases h : s.pc.toNat < 4096
  · rw [postCheck_of_lt h]; exact h
  · rw [postCheck_of_le (by omega)]; exact (by decide : (0x200 : Word).toNat < 4096)

@[simp] theorem hostWriteState_nil (s : State) : hostWriteState [] s = s := rfl

@[simp] theorem hostWriteState_cons (w : StateWrite) (ws : List StateWrite) (s : State) :
    hostWriteState (w :: ws) s = hostWriteState ws (writeElement s w) := rfl

/-- Writing one element keeps the canonical form. -/
theorem wf_writeElement {s : State} (h : Memory.wf s.mem = true) (w : StateWrite) :
    Memory.wf (writeElement s w).mem = true := by
  cases w with
  | mem a b => exact wf_write h _ _
  | _ => exact h

theorem withinMemory_iff (addrs : List Nat) : withinMemory addrs = true ↔ ∀ a ∈ addrs, a < 4096 := by
  simp [withinMemory]

theorem dataAddrs_within (s : State) (ks : List Nat) :
    withinMemory (dataAddrs s ks) = true ↔ ∀ k ∈ ks, s.i.toNat + k < 4096 := by
  simp [withinMemory_iff, dataAddrs, dataAddr]

/-- The block V0 to VX lies in memory exactly when its last byte does. -/
theorem blockAddrs_within (s : State) (x : Reg) :
    withinMemory (dataAddrs s ((blockRegs x).map (·.val))) = true ↔ s.i.toNat + x.val < 4096 := by
  rw [dataAddrs_within]
  constructor
  · intro h
    exact h x.val (List.mem_map.mpr ⟨x, (mem_blockRegs x x).mpr (Fin.le_refl x), rfl⟩)
  · intro h k hk
    obtain ⟨r, hr, rfl⟩ := List.mem_map.mp hk
    have := Fin.le_def.mp ((mem_blockRegs x r).mp hr)
    omega

/-- Every instruction ends in one of two ways: it takes a fault, with none of its effect, or it completes. -/
theorem exec_raises_or_completes (i : Instr) (s : State) :
    (∃ f, exec i s = raise f s) ∨ ∃ u, exec i s = complete u := by
  cases i with
  | ret => simp only [exec, execRet]; split; exacts [.inl ⟨_, rfl⟩, .inr ⟨_, rfl⟩]
  | call nnn => simp only [exec, execCall]; split; exacts [.inr ⟨_, rfl⟩, .inl ⟨_, rfl⟩]
  | drw x y n => simp only [exec, execDrw]; split; exacts [.inr ⟨_, rfl⟩, .inl ⟨_, rfl⟩]
  | skp x => simp only [exec, execSkp]; split; exacts [.inr ⟨_, rfl⟩, .inl ⟨_, rfl⟩]
  | sknp x => simp only [exec, execSknp]; split; exacts [.inr ⟨_, rfl⟩, .inl ⟨_, rfl⟩]
  | ldVxK x => simp only [exec, execLdVxK]; split; exacts [.inr ⟨_, rfl⟩, .inr ⟨_, rfl⟩]
  | ldB x => simp only [exec, execLdB]; split; exacts [.inr ⟨_, rfl⟩, .inl ⟨_, rfl⟩]
  | storeRegs x => simp only [exec, execStoreRegs]; split; exacts [.inr ⟨_, rfl⟩, .inl ⟨_, rfl⟩]
  | loadRegs x => simp only [exec, execLoadRegs]; split; exacts [.inr ⟨_, rfl⟩, .inl ⟨_, rfl⟩]
  | _ => exact .inr ⟨_, rfl⟩

/-- PC_OVERFLOW is no instruction's own outcome (R12). -/
theorem exec_outcome_ne_pcOverflow {i : Instr} {s t : State} (h : exec i s = .next t) :
    t.outcome ≠ some .pcOverflow := by
  cases i with
  | ret => simp only [exec, execRet] at h; split at h <;> cases h <;> simp
  | call nnn => simp only [exec, execCall] at h; split at h <;> cases h <;> simp
  | drw x y n => simp only [exec, execDrw] at h; split at h <;> cases h <;> simp
  | skp x => simp only [exec, execSkp] at h; split at h <;> cases h <;> simp
  | sknp x => simp only [exec, execSknp] at h; split at h <;> cases h <;> simp
  | ldVxK x => simp only [exec, execLdVxK] at h; split at h <;> cases h <;> simp
  | ldB x => simp only [exec, execLdB] at h; split at h <;> cases h <;> simp
  | storeRegs x => simp only [exec, execStoreRegs] at h; split at h <;> cases h <;> simp
  | loadRegs x => simp only [exec, execLoadRegs] at h; split at h <;> cases h <;> simp
  | _ => cases h; simp

/-- A step: either the fetch faults, or one word is executed on the advanced state and the post-execute check follows. -/
theorem step_cases {s t : State} (h : step s = .next t) :
    (4096 ≤ s.pc.toNat + 1 ∧ t = { s with outcome := some .boundsFault }) ∨
    (s.pc.toNat + 1 < 4096 ∧ ∃ u, executeWord (fetchWord s) (advancePc s) = .next u ∧ t = postCheck u) := by
  unfold step at h
  by_cases hf : s.pc.toNat + 1 < 4096
  · rw [if_pos (by simpa [canFetch] using hf)] at h
    cases hu : executeWord (fetchWord s) (advancePc s) with
    | next u => rw [hu] at h; exact .inr ⟨hf, u, rfl, (next_inj.mp h).symm⟩
    | fault f => rw [hu] at h; cases h
    | refused r => rw [hu] at h; cases h
  · rw [if_neg (by simp only [canFetch, decide_eq_true_eq]; exact hf)] at h
    exact .inl ⟨by omega, (next_inj.mp h).symm⟩

/-- Executing a word: an unknown opcode is taken as a fault, an instruction is executed. -/
theorem executeWord_cases {op : Word} {s u : State} (h : executeWord op s = .next u) :
    ((∃ why, decode op = .illegal why) ∧ u = { s with outcome := some .unknownOpcode }) ∨
    ∃ i, decode op = .instr i ∧ exec i s = .next u := by
  unfold executeWord at h
  cases hd : decode op with
  | instr i => rw [hd] at h; exact .inr ⟨i, rfl, h⟩
  | illegal why => rw [hd] at h; exact .inl ⟨⟨why, rfl⟩, (next_inj.mp h).symm⟩

end Sys2Proof.Machine
end

