-- ==== Sys2Proof/Laws/PerInstr.lean ====
section
/-! SUPPORT. Facts about every instruction, one lemma per constructor. -/

namespace Sys2Proof.Laws.RowMatch

/-- An instruction's mnemonic in spec/opcode_table.json. -/
def mnemonicOf : Instr → String
  | .cls => "CLS"
  | .ret => "RET"
  | .jp .. => "JP_addr"
  | .call .. => "CALL_addr"
  | .seByte .. => "SE_Vx__byte"
  | .sneByte .. => "SNE_Vx__byte"
  | .seReg .. => "SE_Vx__Vy"
  | .ldByte .. => "LD_Vx__byte"
  | .addByte .. => "ADD_Vx__byte"
  | .ldReg .. => "LD_Vx__Vy"
  | .orReg .. => "OR_Vx__Vy"
  | .andReg .. => "AND_Vx__Vy"
  | .xorReg .. => "XOR_Vx__Vy"
  | .addReg .. => "ADD_Vx__Vy"
  | .subReg .. => "SUB_Vx__Vy"
  | .shrReg .. => "SHR_Vx__Vy"
  | .subnReg .. => "SUBN_Vx__Vy"
  | .shlReg .. => "SHL_Vx__Vy"
  | .sneReg .. => "SNE_Vx__Vy"
  | .ldI .. => "LD_I__addr"
  | .jpV0 .. => "JP_V0__addr"
  | .rnd .. => "RND_Vx__byte"
  | .drw .. => "DRW_Vx__Vy__nibble"
  | .skp .. => "SKP_Vx"
  | .sknp .. => "SKNP_Vx"
  | .ldVxDt .. => "LD_Vx__DT"
  | .ldVxK .. => "LD_Vx__K"
  | .ldDtVx .. => "LD_DT__Vx"
  | .ldStVx .. => "LD_ST__Vx"
  | .addI .. => "ADD_I__Vx"
  | .ldF .. => "LD_F__Vx"
  | .ldB .. => "LD_B__Vx"
  | .storeRegs .. => "LD__I___Vx"
  | .loadRegs .. => "LD_Vx___I"

/-- The encoding of an instruction matches the row of the opcode map that bears its mnemonic (R95). -/
def Statement (i : Instr) : Prop := ∃ r ∈ opcodeRows, r.mnemonic = mnemonicOf i ∧ r.matchesWord (encode i) = true

theorem matches_F000 {op : Word} {f : Nat} (h : op.toNat / 4096 = f) :
    (op &&& 0xF000 == BitVec.ofNat 16 (f * 4096)) = true := by
  rw [beq_iff_eq]; apply BitVec.eq_of_toNat_eq
  rw [land_F000_toNat, h, BitVec.toNat_ofNat]; omega

theorem matches_F00F {op : Word} {f n : Nat} (h : op.toNat / 4096 = f) (hl : op.toNat % 16 = n) :
    (op &&& 0xF00F == BitVec.ofNat 16 (f * 4096 + n)) = true := by
  rw [beq_iff_eq]; apply BitVec.eq_of_toNat_eq
  rw [land_F00F_toNat, h, hl, BitVec.toNat_ofNat]; omega

theorem matches_F0FF {op : Word} {f n : Nat} (h : op.toNat / 4096 = f)
    (hl : op.toNat % 256 = n) : (op &&& 0xF0FF == BitVec.ofNat 16 (f * 4096 + n)) = true := by
  rw [beq_iff_eq]; apply BitVec.eq_of_toNat_eq
  rw [land_F0FF_toNat, h, hl, BitVec.toNat_ofNat]; omega

theorem cls : Statement .cls :=
  ⟨⟨"CLS", 0xFFFF, 0x00E0⟩, by decide, rfl, by decide⟩

theorem ret : Statement .ret :=
  ⟨⟨"RET", 0xFFFF, 0x00EE⟩, by decide, rfl, by decide⟩

theorem jp (nnn : Addr12) : Statement (.jp nnn) :=
  ⟨⟨"JP_addr", 0xF000, 0x1000⟩, by decide, rfl,
    matches_F000 (f := 1) (by simp only [encode]; rw [opcodeNNN_toNat (by omega) nnn.isLt]; have := nnn.isLt; omega)⟩

theorem call (nnn : Addr12) : Statement (.call nnn) :=
  ⟨⟨"CALL_addr", 0xF000, 0x2000⟩, by decide, rfl,
    matches_F000 (f := 2) (by simp only [encode]; rw [opcodeNNN_toNat (by omega) nnn.isLt]; have := nnn.isLt; omega)⟩

theorem seByte (x : Reg) (nn : Byte) : Statement (.seByte x nn) :=
  ⟨⟨"SE_Vx__byte", 0xF000, 0x3000⟩, by decide, rfl,
    matches_F000 (f := 3) (by simp only [encode]; rw [opcodeXNN_toNat (by omega) nn.isLt]; have := nn.isLt; omega)⟩

theorem sneByte (x : Reg) (nn : Byte) : Statement (.sneByte x nn) :=
  ⟨⟨"SNE_Vx__byte", 0xF000, 0x4000⟩, by decide, rfl,
    matches_F000 (f := 4) (by simp only [encode]; rw [opcodeXNN_toNat (by omega) nn.isLt]; have := nn.isLt; omega)⟩

theorem seReg (x y : Reg) : Statement (.seReg x y) :=
  ⟨⟨"SE_Vx__Vy", 0xF00F, 0x5000⟩, by decide, rfl,
    matches_F00F (f := 5) (n := 0) (by have e := opcodeXYN_toNat (f := 5) (by omega) x y 0; simp only [encode]; change (opcodeXYN 5 x y 0).toNat = _ at e; omega) (by have e := opcodeXYN_toNat (f := 5) (by omega) x y 0; simp only [encode]; change (opcodeXYN 5 x y 0).toNat = _ at e; omega)⟩

theorem ldByte (x : Reg) (nn : Byte) : Statement (.ldByte x nn) :=
  ⟨⟨"LD_Vx__byte", 0xF000, 0x6000⟩, by decide, rfl,
    matches_F000 (f := 6) (by simp only [encode]; rw [opcodeXNN_toNat (by omega) nn.isLt]; have := nn.isLt; omega)⟩

theorem addByte (x : Reg) (nn : Byte) : Statement (.addByte x nn) :=
  ⟨⟨"ADD_Vx__byte", 0xF000, 0x7000⟩, by decide, rfl,
    matches_F000 (f := 7) (by simp only [encode]; rw [opcodeXNN_toNat (by omega) nn.isLt]; have := nn.isLt; omega)⟩

theorem ldReg (x y : Reg) : Statement (.ldReg x y) :=
  ⟨⟨"LD_Vx__Vy", 0xF00F, 0x8000⟩, by decide, rfl,
    matches_F00F (f := 8) (n := 0) (by have e := opcodeXYN_toNat (f := 8) (by omega) x y 0; simp only [encode]; change (opcodeXYN 8 x y 0).toNat = _ at e; omega) (by have e := opcodeXYN_toNat (f := 8) (by omega) x y 0; simp only [encode]; change (opcodeXYN 8 x y 0).toNat = _ at e; omega)⟩

theorem orReg (x y : Reg) : Statement (.orReg x y) :=
  ⟨⟨"OR_Vx__Vy", 0xF00F, 0x8001⟩, by decide, rfl,
    matches_F00F (f := 8) (n := 1) (by have e := opcodeXYN_toNat (f := 8) (by omega) x y 1; simp only [encode]; change (opcodeXYN 8 x y 1).toNat = _ at e; omega) (by have e := opcodeXYN_toNat (f := 8) (by omega) x y 1; simp only [encode]; change (opcodeXYN 8 x y 1).toNat = _ at e; omega)⟩

theorem andReg (x y : Reg) : Statement (.andReg x y) :=
  ⟨⟨"AND_Vx__Vy", 0xF00F, 0x8002⟩, by decide, rfl,
    matches_F00F (f := 8) (n := 2) (by have e := opcodeXYN_toNat (f := 8) (by omega) x y 2; simp only [encode]; change (opcodeXYN 8 x y 2).toNat = _ at e; omega) (by have e := opcodeXYN_toNat (f := 8) (by omega) x y 2; simp only [encode]; change (opcodeXYN 8 x y 2).toNat = _ at e; omega)⟩

theorem xorReg (x y : Reg) : Statement (.xorReg x y) :=
  ⟨⟨"XOR_Vx__Vy", 0xF00F, 0x8003⟩, by decide, rfl,
    matches_F00F (f := 8) (n := 3) (by have e := opcodeXYN_toNat (f := 8) (by omega) x y 3; simp only [encode]; change (opcodeXYN 8 x y 3).toNat = _ at e; omega) (by have e := opcodeXYN_toNat (f := 8) (by omega) x y 3; simp only [encode]; change (opcodeXYN 8 x y 3).toNat = _ at e; omega)⟩

theorem addReg (x y : Reg) : Statement (.addReg x y) :=
  ⟨⟨"ADD_Vx__Vy", 0xF00F, 0x8004⟩, by decide, rfl,
    matches_F00F (f := 8) (n := 4) (by have e := opcodeXYN_toNat (f := 8) (by omega) x y 4; simp only [encode]; change (opcodeXYN 8 x y 4).toNat = _ at e; omega) (by have e := opcodeXYN_toNat (f := 8) (by omega) x y 4; simp only [encode]; change (opcodeXYN 8 x y 4).toNat = _ at e; omega)⟩

theorem subReg (x y : Reg) : Statement (.subReg x y) :=
  ⟨⟨"SUB_Vx__Vy", 0xF00F, 0x8005⟩, by decide, rfl,
    matches_F00F (f := 8) (n := 5) (by have e := opcodeXYN_toNat (f := 8) (by omega) x y 5; simp only [encode]; change (opcodeXYN 8 x y 5).toNat = _ at e; omega) (by have e := opcodeXYN_toNat (f := 8) (by omega) x y 5; simp only [encode]; change (opcodeXYN 8 x y 5).toNat = _ at e; omega)⟩

theorem shrReg (x y : Reg) : Statement (.shrReg x y) :=
  ⟨⟨"SHR_Vx__Vy", 0xF00F, 0x8006⟩, by decide, rfl,
    matches_F00F (f := 8) (n := 6) (by have e := opcodeXYN_toNat (f := 8) (by omega) x y 6; simp only [encode]; change (opcodeXYN 8 x y 6).toNat = _ at e; omega) (by have e := opcodeXYN_toNat (f := 8) (by omega) x y 6; simp only [encode]; change (opcodeXYN 8 x y 6).toNat = _ at e; omega)⟩

theorem subnReg (x y : Reg) : Statement (.subnReg x y) :=
  ⟨⟨"SUBN_Vx__Vy", 0xF00F, 0x8007⟩, by decide, rfl,
    matches_F00F (f := 8) (n := 7) (by have e := opcodeXYN_toNat (f := 8) (by omega) x y 7; simp only [encode]; change (opcodeXYN 8 x y 7).toNat = _ at e; omega) (by have e := opcodeXYN_toNat (f := 8) (by omega) x y 7; simp only [encode]; change (opcodeXYN 8 x y 7).toNat = _ at e; omega)⟩

theorem shlReg (x y : Reg) : Statement (.shlReg x y) :=
  ⟨⟨"SHL_Vx__Vy", 0xF00F, 0x800E⟩, by decide, rfl,
    matches_F00F (f := 8) (n := 14) (by have e := opcodeXYN_toNat (f := 8) (by omega) x y 14; simp only [encode]; change (opcodeXYN 8 x y 14).toNat = _ at e; omega) (by have e := opcodeXYN_toNat (f := 8) (by omega) x y 14; simp only [encode]; change (opcodeXYN 8 x y 14).toNat = _ at e; omega)⟩

theorem sneReg (x y : Reg) : Statement (.sneReg x y) :=
  ⟨⟨"SNE_Vx__Vy", 0xF00F, 0x9000⟩, by decide, rfl,
    matches_F00F (f := 9) (n := 0) (by have e := opcodeXYN_toNat (f := 9) (by omega) x y 0; simp only [encode]; change (opcodeXYN 9 x y 0).toNat = _ at e; omega) (by have e := opcodeXYN_toNat (f := 9) (by omega) x y 0; simp only [encode]; change (opcodeXYN 9 x y 0).toNat = _ at e; omega)⟩

theorem ldI (nnn : Addr12) : Statement (.ldI nnn) :=
  ⟨⟨"LD_I__addr", 0xF000, 0xA000⟩, by decide, rfl,
    matches_F000 (f := 10) (by simp only [encode]; rw [opcodeNNN_toNat (by omega) nnn.isLt]; have := nnn.isLt; omega)⟩

theorem jpV0 (nnn : Addr12) : Statement (.jpV0 nnn) :=
  ⟨⟨"JP_V0__addr", 0xF000, 0xB000⟩, by decide, rfl,
    matches_F000 (f := 11) (by simp only [encode]; rw [opcodeNNN_toNat (by omega) nnn.isLt]; have := nnn.isLt; omega)⟩

theorem rnd (x : Reg) (nn : Byte) : Statement (.rnd x nn) :=
  ⟨⟨"RND_Vx__byte", 0xF000, 0xC000⟩, by decide, rfl,
    matches_F000 (f := 12) (by simp only [encode]; rw [opcodeXNN_toNat (by omega) nn.isLt]; have := nn.isLt; omega)⟩

theorem drw (x y : Reg) (n : Fin 16) : Statement (.drw x y n) :=
  ⟨⟨"DRW_Vx__Vy__nibble", 0xF000, 0xD000⟩, by decide, rfl,
    matches_F000 (f := 13) (by simp only [encode]; rw [opcodeXYN_toNat (by omega)]; omega)⟩

theorem skp (x : Reg) : Statement (.skp x) :=
  ⟨⟨"SKP_Vx", 0xF0FF, 0xE09E⟩, by decide, rfl,
    matches_F0FF (f := 14) (n := 158) (by simp only [encode]; rw [opcodeXNN_toNat (by omega) (by omega)]; omega) (by simp only [encode]; rw [opcodeXNN_toNat (by omega) (by omega)]; omega)⟩

theorem sknp (x : Reg) : Statement (.sknp x) :=
  ⟨⟨"SKNP_Vx", 0xF0FF, 0xE0A1⟩, by decide, rfl,
    matches_F0FF (f := 14) (n := 161) (by simp only [encode]; rw [opcodeXNN_toNat (by omega) (by omega)]; omega) (by simp only [encode]; rw [opcodeXNN_toNat (by omega) (by omega)]; omega)⟩

theorem ldVxDt (x : Reg) : Statement (.ldVxDt x) :=
  ⟨⟨"LD_Vx__DT", 0xF0FF, 0xF007⟩, by decide, rfl,
    matches_F0FF (f := 15) (n := 7) (by simp only [encode]; rw [opcodeXNN_toNat (by omega) (by omega)]; omega) (by simp only [encode]; rw [opcodeXNN_toNat (by omega) (by omega)]; omega)⟩

theorem ldVxK (x : Reg) : Statement (.ldVxK x) :=
  ⟨⟨"LD_Vx__K", 0xF0FF, 0xF00A⟩, by decide, rfl,
    matches_F0FF (f := 15) (n := 10) (by simp only [encode]; rw [opcodeXNN_toNat (by omega) (by omega)]; omega) (by simp only [encode]; rw [opcodeXNN_toNat (by omega) (by omega)]; omega)⟩

theorem ldDtVx (x : Reg) : Statement (.ldDtVx x) :=
  ⟨⟨"LD_DT__Vx", 0xF0FF, 0xF015⟩, by decide, rfl,
    matches_F0FF (f := 15) (n := 21) (by simp only [encode]; rw [opcodeXNN_toNat (by omega) (by omega)]; omega) (by simp only [encode]; rw [opcodeXNN_toNat (by omega) (by omega)]; omega)⟩

theorem ldStVx (x : Reg) : Statement (.ldStVx x) :=
  ⟨⟨"LD_ST__Vx", 0xF0FF, 0xF018⟩, by decide, rfl,
    matches_F0FF (f := 15) (n := 24) (by simp only [encode]; rw [opcodeXNN_toNat (by omega) (by omega)]; omega) (by simp only [encode]; rw [opcodeXNN_toNat (by omega) (by omega)]; omega)⟩

theorem addI (x : Reg) : Statement (.addI x) :=
  ⟨⟨"ADD_I__Vx", 0xF0FF, 0xF01E⟩, by decide, rfl,
    matches_F0FF (f := 15) (n := 30) (by simp only [encode]; rw [opcodeXNN_toNat (by omega) (by omega)]; omega) (by simp only [encode]; rw [opcodeXNN_toNat (by omega) (by omega)]; omega)⟩

theorem ldF (x : Reg) : Statement (.ldF x) :=
  ⟨⟨"LD_F__Vx", 0xF0FF, 0xF029⟩, by decide, rfl,
    matches_F0FF (f := 15) (n := 41) (by simp only [encode]; rw [opcodeXNN_toNat (by omega) (by omega)]; omega) (by simp only [encode]; rw [opcodeXNN_toNat (by omega) (by omega)]; omega)⟩

theorem ldB (x : Reg) : Statement (.ldB x) :=
  ⟨⟨"LD_B__Vx", 0xF0FF, 0xF033⟩, by decide, rfl,
    matches_F0FF (f := 15) (n := 51) (by simp only [encode]; rw [opcodeXNN_toNat (by omega) (by omega)]; omega) (by simp only [encode]; rw [opcodeXNN_toNat (by omega) (by omega)]; omega)⟩

theorem storeRegs (x : Reg) : Statement (.storeRegs x) :=
  ⟨⟨"LD__I___Vx", 0xF0FF, 0xF055⟩, by decide, rfl,
    matches_F0FF (f := 15) (n := 85) (by simp only [encode]; rw [opcodeXNN_toNat (by omega) (by omega)]; omega) (by simp only [encode]; rw [opcodeXNN_toNat (by omega) (by omega)]; omega)⟩

theorem loadRegs (x : Reg) : Statement (.loadRegs x) :=
  ⟨⟨"LD_Vx___I", 0xF0FF, 0xF065⟩, by decide, rfl,
    matches_F0FF (f := 15) (n := 101) (by simp only [encode]; rw [opcodeXNN_toNat (by omega) (by omega)]; omega) (by simp only [encode]; rw [opcodeXNN_toNat (by omega) (by omega)]; omega)⟩

end Sys2Proof.Laws.RowMatch
end

