-- ==== Sys2Proof/Laws/Screen.lean ====
section
/-! SUPPORT. The framebuffer: reading a pixel after toggling one, toggling a list of distinct pixels, the pixels of a
sprite, and that the pixels determine the framebuffer. -/

namespace Sys2Proof.Machine

theorem pixelAt_of_lt (fb : Framebuffer) (px : Nat) {py : Nat} (hy : py < 32) :
    pixelAt fb px py = fb[py].getLsbD px := by simp [pixelAt, hy]

theorem pixelAt_flipPixel (fb : Framebuffer) {x y px py : Nat} (hx : x < 64) (hy : y < 32) :
    pixelAt (flipPixel fb x y) px py = (pixelAt fb px py ^^ decide (px = x ∧ py = y)) := by
  unfold flipPixel
  rw [dif_pos hy]
  by_cases hpy : py < 32
  · rw [pixelAt_of_lt _ _ hpy, pixelAt_of_lt _ _ hpy, Vector.getElem_set]
    by_cases he : y = py
    · subst he
      rw [if_pos rfl, BitVec.getLsbD_xor, BitVec.getLsbD_twoPow]
      by_cases hp : x = px
      · subst hp; simp [hx]
      · simp [hp, Ne.symm hp]
    · rw [if_neg he]; simp [Ne.symm he]
  · simp only [pixelAt, hpy, dite_false, Bool.false_xor]
    have : ¬ (px = x ∧ py = y) := fun h => hpy (h.2 ▸ hy)
    simp [this]

/-- Toggling distinct pixels, one after another: each is toggled once, and the flag says whether one of them was set. -/
theorem foldl_xorPixel (ps : List (Nat × Nat)) (hn : ps.Nodup) (hin : ∀ p ∈ ps, p.1 < 64 ∧ p.2 < 32)
    (fb : Framebuffer) (hit : Bool) :
    (∀ px py, pixelAt (ps.foldl xorPixel (fb, hit)).1 px py = (pixelAt fb px py ^^ decide ((px, py) ∈ ps))) ∧
    (ps.foldl xorPixel (fb, hit)).2 = (hit || decide (∃ p ∈ ps, pixelAt fb p.1 p.2 = true)) := by
  induction ps generalizing fb hit with
  | nil => simp
  | cons q qs ih =>
    obtain ⟨hq, hqs⟩ := List.nodup_cons.mp hn
    have hq64 := hin q List.mem_cons_self
    obtain ⟨ih1, ih2⟩ := ih hqs (fun p hp => hin p (List.mem_cons_of_mem _ hp)) (flipPixel fb q.1 q.2)
      (hit || pixelAt fb q.1 q.2)
    rw [List.foldl_cons]
    have hx : xorPixel (fb, hit) q = (flipPixel fb q.1 q.2, hit || pixelAt fb q.1 q.2) := rfl
    rw [hx]
    refine ⟨fun px py => ?_, ?_⟩
    · rw [ih1, pixelAt_flipPixel fb hq64.1 hq64.2]
      by_cases he : (px, py) = q
      · subst he; simp [hq]
      · have h1 : ¬ (px = q.1 ∧ py = q.2) := fun h => he (Prod.ext h.1 h.2)
        simp [h1, he]
    · rw [ih2]
      have hsame : ∀ p ∈ qs, pixelAt (flipPixel fb q.1 q.2) p.1 p.2 = pixelAt fb p.1 p.2 := by
        intro p hp
        rw [pixelAt_flipPixel fb hq64.1 hq64.2]
        have : ¬ (p.1 = q.1 ∧ p.2 = q.2) := fun h => hq (by rw [← Prod.ext h.1 h.2]; exact hp)
        simp [this]
      have hex : (∃ p ∈ qs, pixelAt (flipPixel fb q.1 q.2) p.1 p.2 = true) ↔ ∃ p ∈ qs, pixelAt fb p.1 p.2 = true :=
        ⟨fun ⟨p, hp, h⟩ => ⟨p, hp, hsame p hp ▸ h⟩, fun ⟨p, hp, h⟩ => ⟨p, hp, (hsame p hp).symm ▸ h⟩⟩
      simp only [hex, List.exists_mem_cons_iff, Bool.decide_or, Bool.or_assoc, Bool.decide_eq_true]

theorem mem_drawnRows (y0 n r : Nat) : r ∈ drawnRows y0 n ↔ r < n ∧ y0 + r < 32 := by
  simp [drawnRows]

theorem mem_rowPixels (x0 py : Nat) (b : Byte) (p : Nat × Nat) :
    p ∈ rowPixels x0 py b ↔
      x0 ≤ p.1 ∧ p.1 < x0 + 8 ∧ p.1 < 64 ∧ p.2 = py ∧ b.getLsbD (7 - (p.1 - x0)) = true := by
  obtain ⟨a, c⟩ := p
  simp only [rowPixels, List.mem_map, List.mem_filter, List.mem_range, Bool.and_eq_true, decide_eq_true_eq,
    Prod.mk.injEq]
  constructor
  · rintro ⟨k, ⟨hk, hlt, hb⟩, rfl, rfl⟩
    refine ⟨by omega, by omega, hlt, rfl, ?_⟩
    rw [Nat.add_sub_cancel_left]; exact hb
  · rintro ⟨h1, h2, h3, h4, h5⟩
    exact ⟨a - x0, ⟨by omega, by simp only [Config.screenW]; omega, h5⟩, by omega, h4.symm⟩

/-- The pixels a sprite toggles are those of the screen on which a set sprite bit falls (R221, R222). -/
theorem mem_spritePixels (s : State) (x0 y0 n : Nat) (p : Nat × Nat) :
    p ∈ spritePixels s x0 y0 n ↔ p.1 < 64 ∧ p.2 < 32 ∧ spriteBitAt s x0 y0 n p.1 p.2 = true := by
  simp only [spritePixels, List.mem_flatMap, mem_drawnRows, mem_rowPixels, spriteBitAt, Bool.and_eq_true,
    decide_eq_true_eq, dataAddr]
  constructor
  · rintro ⟨r, ⟨hr, hy⟩, h1, h2, h3, h4, h5⟩
    refine ⟨h3, by omega, ⟨⟨⟨h1, h2⟩, by omega⟩, by omega⟩, ?_⟩
    rw [h4, Nat.add_sub_cancel_left]; exact h5
  · rintro ⟨h1, h2, ⟨⟨⟨h3, h4⟩, h5⟩, h6⟩, h7⟩
    exact ⟨p.2 - y0, ⟨by omega, by omega⟩, h3, h4, h1, by omega, h7⟩

theorem nodup_rowPixels (x0 py : Nat) (b : Byte) : (rowPixels x0 py b).Nodup := by
  unfold rowPixels
  refine List.Nodup.map (fun a c h => ?_) (List.nodup_range.filter _)
  have := congrArg Prod.fst h
  simp only at this
  omega

/-- No pixel is toggled twice by one draw (R221). -/
theorem nodup_spritePixels (s : State) (x0 y0 n : Nat) : (spritePixels s x0 y0 n).Nodup := by
  unfold spritePixels
  refine List.nodup_flatMap.mpr ⟨fun r _ => nodup_rowPixels _ _ _, ?_⟩
  refine (List.nodup_range.filter _).imp ?_
  intro r q hrq p hp hq
  rw [mem_rowPixels] at hp hq
  omega

/-- The pixels determine the framebuffer. -/
theorem framebuffer_ext {a b : Framebuffer} (h : ∀ px py, px < 64 → py < 32 → pixelAt a px py = pixelAt b px py) :
    a = b := by
  apply Vector.ext
  intro y hy
  apply BitVec.eq_of_getLsbD_eq
  intro x hx
  have := h x y hx hy
  rwa [pixelAt_of_lt _ _ hy, pixelAt_of_lt _ _ hy] at this

end Sys2Proof.Machine
end

