-- ==== Sys2Proof/Tests/Slice0.lean ====
section
/-! SUPPORT. Tests: small facts on fixed values, none of them a statement for the provers. Expected values come from the
spec: the opcode map (30_encoding.md R95, R96), the vectors of 95_test_vectors.md (named in each docstring) and the
examples of the rules. The `witness_` theorems show, for each statement with hypotheses, a state and operands that meet
them together. -/

namespace Sys2Proof.Tests

open Sys2Proof Sys2Proof.Machine

/-! ## Helpers -/

/-- The reset state with V registers set. -/
def regs (l : List (Reg × Byte)) : State := l.foldl (fun s p => writeV p.1 p.2 s) State.reset

/-- A state with an opcode where its next step fetches it. -/
def placed (s : State) (op : Nat) : State := s.withFetchWord 16 op

/-- A state with bytes in memory from an address. -/
def poke (s : State) (a : Nat) (bytes : List Byte) : State := { s with mem := Memory.writeBytes s.mem a bytes }

/-- The state a result goes on in; reset where it does not go on. -/
def goesOn : Result → State
  | .next t    => t
  | .fault _   => State.reset
  | .refused _ => State.reset

/-- One step of a state with an opcode placed at PC. -/
def run1 (s : State) (op : Nat) : State := goesOn (step (placed s op))

/-- The reset state with PC elsewhere. -/
def atPc (a : Word) : State := { State.reset with pc := a }

/-- The reset state with one key pressed. -/
def withKey (k : Fin 16) (s : State) : State := { s with keys := s.keys.set k.val true }

/-! ## Well-formed words: each illegal space of R96 is refused -/

theorem test_wf_family_zero : wellFormedWord 0x0000 = false ∧ wellFormedWord 0x0123 = false ∧
    wellFormedWord 0x00E1 = false ∧ wellFormedWord 0x0FFF = false ∧ wellFormedWord 0x00E0 = true := by decide

theorem test_wf_skip_nibbles : wellFormedWord 0x5001 = false ∧ wellFormedWord 0x500F = false ∧
    wellFormedWord 0x9001 = false ∧ wellFormedWord 0x9FFF = false ∧ wellFormedWord 0x5120 = true := by decide

theorem test_wf_alu : wellFormedWord 0x8008 = false ∧ wellFormedWord 0x800D = false ∧ wellFormedWord 0x800F = false ∧
    wellFormedWord 0x800E = true := by decide

theorem test_wf_keys_and_misc : wellFormedWord 0xE000 = false ∧ wellFormedWord 0xE0A2 = false ∧
    wellFormedWord 0xF000 = false ∧ wellFormedWord 0xF0FF = false ∧ wellFormedWord 0xE4A1 = true ∧
    wellFormedWord 0xF265 = true := by decide

theorem test_rows_disjoint : opcodeRows.length = 34 ∧
    opcodeRows.Pairwise (fun r q => r.disjointFrom q = true) := by decide

/-! ## Decoding: one word of every constructor, from the patterns of R95 -/

theorem test_decode_flow : decode 0x00EE = .instr .ret ∧ decode 0x1234 = .instr (.jp 0x234) ∧
    decode 0x2300 = .instr (.call 0x300) ∧ decode 0x3342 = .instr (.seByte 3 0x42) ∧
    decode 0x4342 = .instr (.sneByte 3 0x42) ∧ decode 0x5120 = .instr (.seReg 1 2) ∧
    decode 0x9120 = .instr (.sneReg 1 2) ∧ decode 0xB123 = .instr (.jpV0 0x123) := by decide

theorem test_decode_loads : decode 0x6A2B = .instr (.ldByte 0xA 0x2B) ∧ decode 0x73FF = .instr (.addByte 3 0xFF) ∧
    decode 0x8F10 = .instr (.ldReg 15 1) ∧ decode 0xC30F = .instr (.rnd 3 0x0F) := by decide

theorem test_decode_alu : decode 0x8121 = .instr (.orReg 1 2) ∧ decode 0x8122 = .instr (.andReg 1 2) ∧
    decode 0x8123 = .instr (.xorReg 1 2) ∧ decode 0x8124 = .instr (.addReg 1 2) ∧
    decode 0x8125 = .instr (.subReg 1 2) ∧ decode 0x8126 = .instr (.shrReg 1 2) ∧
    decode 0x8127 = .instr (.subnReg 1 2) ∧ decode 0x812E = .instr (.shlReg 1 2) := by decide

theorem test_decode_index : decode 0xABCD = .instr (.ldI 0xBCD) ∧ decode 0xF51E = .instr (.addI 5) ∧
    decode 0xF029 = .instr (.ldF 0) ∧ decode 0xF033 = .instr (.ldB 0) ∧ decode 0xF255 = .instr (.storeRegs 2) ∧
    decode 0xFF65 = .instr (.loadRegs 15) := by decide

theorem test_decode_display : decode 0x00E0 = .instr .cls ∧ decode 0xD123 = .instr (.drw 1 2 3) := by decide

theorem test_decode_keys_timers : decode 0xE49E = .instr (.skp 4) ∧ decode 0xE4A1 = .instr (.sknp 4) ∧
    decode 0xF30A = .instr (.ldVxK 3) ∧ decode 0xF207 = .instr (.ldVxDt 2) ∧ decode 0xF215 = .instr (.ldDtVx 2) ∧
    decode 0xF218 = .instr (.ldStVx 2) := by decide

/-- 95_test_vectors.md C11: the fields of 0xD123. -/
theorem test_fields : fieldsOf 0xD123 = ⟨0xD123, 0xD, 1, 2, 3, 0x23, 0x123⟩ := by decide

/-- R96: the illegal word of each space is refused by that space's name. -/
theorem test_decode_illegal : decode 0x0123 = .illegal .unmappedZero ∧ decode 0x5121 = .illegal .skipEqualNibble ∧
    decode 0x8008 = .illegal .unmappedAlu ∧ decode 0x9FFF = .illegal .skipDiffersNibble ∧
    decode 0xE09F = .illegal .unmappedKey ∧ decode 0xF066 = .illegal .unmappedMisc ∧
    decodeBytes [0x12] = .illegal .truncated := by decide

/-- The table's numbering: JP with operand zero, and a table word at PC that the step runs. -/
theorem test_table_word : decodeTableWord 16 0x1000 = some (.jp 0) ∧ decodeTableWord 16 0x0000 = none ∧
    fetchWord (placed State.reset 0x6A2B) = 0x6A2B := by decide

/-! ## The cycle (95_test_vectors.md L1, L2.1) -/

/-- C1: an odd PC is fetched like any other. -/
theorem test_odd_pc : (run1 (atPc 0x201) 0x6012).v[0] = 0x12 ∧ (run1 (atPc 0x201) 0x6012).pc = 0x203 := by decide

/-- C2, C3: fetch past the end of memory. -/
theorem test_fetch_bounds : step (atPc 0xFFF) = .next { atPc 0xFFF with outcome := some .boundsFault } ∧
    step (atPc 0x1000) = .next { atPc 0x1000 with outcome := some .boundsFault } := ⟨rfl, rfl⟩

/-- C4 and L1 entry 1: an unknown opcode, at 0xFFE and at 0x200. -/
theorem test_unknown : (run1 (atPc 0xFFE) 0x0000).pc = 0x200 ∧
    (run1 (atPc 0xFFE) 0x0000).outcome = some .unknownOpcode ∧
    (run1 State.reset 0x5121).pc = 0x202 ∧ (run1 State.reset 0x5121).outcome = some .unknownOpcode := by decide

/-- L1 entry 14: an overflow keeps the instruction's own write. -/
theorem test_pc_overflow : (run1 (atPc 0xFFE) 0x6A77).v[10] = 0x77 ∧ (run1 (atPc 0xFFE) 0x6A77).pc = 0x200 ∧
    (run1 (atPc 0xFFE) 0x6A77).outcome = some .pcOverflow := by decide

/-! ## Control transfer (L2.2) -/

/-- A state with two return addresses. -/
def twoCalls : State := { State.reset with sp := 2, stack := (State.reset.stack.set 0 0x206).set 1 0x400 }

/-- F2 and F1. -/
theorem test_ret : (run1 twoCalls 0x00EE).pc = 0x400 ∧ (run1 twoCalls 0x00EE).sp = 1 ∧
    (run1 twoCalls 0x00EE).stack[1] = 0x400 ∧ (run1 State.reset 0x00EE).outcome = some .stackUnderflow ∧
    (run1 State.reset 0x00EE).pc = 0x202 := by decide

/-- F10: a popped 0x1000 ends in PC_OVERFLOW. -/
theorem test_ret_overflow : (run1 { State.reset with sp := 1, stack := State.reset.stack.set 0 0x1000 } 0x00EE).pc = 0x200 ∧
    (run1 { State.reset with sp := 1, stack := State.reset.stack.set 0 0x1000 } 0x00EE).outcome = some .pcOverflow := by
  decide

/-- F6, F5. -/
theorem test_jp : (run1 State.reset 0x1001).pc = 0x001 ∧ (run1 State.reset 0x1FFF).pc = 0xFFF := by decide

/-- F9, F7. -/
theorem test_call : (run1 (atPc 0xFFE) 0x2300).stack[0] = 0x1000 ∧ (run1 (atPc 0xFFE) 0x2300).pc = 0x300 ∧
    (run1 { State.reset with sp := 15 } 0x2400).stack[15] = 0x202 ∧
    (run1 { State.reset with sp := 15 } 0x2400).sp = 16 := by decide

/-- F8. -/
theorem test_call_full : (run1 { State.reset with sp := 16 } 0x2400).outcome = some .stackOverflow ∧
    (run1 { State.reset with sp := 16 } 0x2400).pc = 0x202 ∧ (run1 { State.reset with sp := 16 } 0x2400).sp = 16 := by
  decide

/-- F11, F12, F15. -/
theorem test_se_byte : (run1 (regs [(3, 0x42)]) 0x3342).pc = 0x204 ∧ (run1 (regs [(3, 0x42)]) 0x3343).pc = 0x202 ∧
    (run1 (atPc 0xFFE) 0x3000).outcome = some .pcOverflow := by decide

/-- F17, F18. -/
theorem test_sne_byte : (run1 (regs [(3, 0x42)]) 0x4342).pc = 0x202 ∧ (run1 (regs [(3, 0x42)]) 0x4300).pc = 0x204 := by
  decide

/-- F19, F20. -/
theorem test_se_reg : (run1 (regs [(1, 7), (2, 7)]) 0x5120).pc = 0x204 ∧
    (run1 (regs [(1, 7), (2, 8)]) 0x5120).pc = 0x202 := by decide

/-- F22, F23. -/
theorem test_sne_reg : (run1 (regs [(1, 7), (2, 8)]) 0x9120).pc = 0x204 ∧ (run1 State.reset 0x9110).pc = 0x202 := by
  decide

/-- F28: bits 11:8 select no register. -/
theorem test_jp_v0 : (run1 (regs [(0, 0x02), (1, 0x50)]) 0xB123).pc = 0x125 := by decide

/-- F27: the largest target, 0x10FE, ends in PC_OVERFLOW. -/
theorem test_jp_v0_overflow : (run1 (regs [(0, 0xFF)]) 0xBFFF).pc = 0x200 ∧
    (run1 (regs [(0, 0xFF)]) 0xBFFF).outcome = some .pcOverflow := by decide

/-! ## Register loads and the ALU (L2.3) -/

/-- A1, A2. -/
theorem test_ld_byte : (run1 State.reset 0x6A2B).v[10] = 0x2B ∧ (run1 State.reset 0x6F55).v[15] = 0x55 := by decide

/-- A3, A4. -/
theorem test_add_byte : (run1 (regs [(3, 0x10)]) 0x73FF).v[3] = 0x0F ∧ (run1 (regs [(15, 0x01)]) 0x7FFF).v[15] = 0x00 := by
  decide

/-- A5. -/
theorem test_ld_reg : (run1 (regs [(1, 0x33)]) 0x8F10).v[15] = 0x33 := by decide

/-- A6: VF keeps its value. -/
theorem test_or : (run1 (regs [(1, 0xF0), (2, 0x0C), (15, 1)]) 0x8121).v[1] = 0xFC ∧
    (run1 (regs [(1, 0xF0), (2, 0x0C), (15, 1)]) 0x8121).v[15] = 0x01 := by decide

/-- R174's example, A8. -/
theorem test_and : (run1 (regs [(1, 0xF0), (2, 0x3C)]) 0x8122).v[1] = 0x30 ∧
    (run1 (regs [(1, 0xFF), (15, 1)]) 0x8122).v[15] = 0x01 := by decide

/-- A9, A10. -/
theorem test_xor : (run1 (regs [(1, 0xF0), (2, 0x3C)]) 0x8123).v[1] = 0xCC ∧
    (run1 (regs [(1, 0x5A), (15, 1)]) 0x8113).v[15] = 0x01 := by decide

/-- A11, A13. -/
theorem test_add : (run1 (regs [(1, 0xFF), (2, 1)]) 0x8124).v[1] = 0x00 ∧
    (run1 (regs [(1, 0xFF), (2, 1)]) 0x8124).v[15] = 0x01 ∧ (run1 (regs [(1, 0x7F), (2, 0x80)]) 0x8124).v[1] = 0xFF ∧
    (run1 (regs [(1, 0x7F), (2, 0x80)]) 0x8124).v[15] = 0x00 := by decide

/-- A15, A17: X = F and Y = F. -/
theorem test_add_flag_last : (run1 (regs [(15, 0x10), (1, 0x20)]) 0x8F14).v[15] = 0x00 ∧
    (run1 (regs [(1, 0xFF), (15, 1)]) 0x81F4).v[1] = 0x00 ∧ (run1 (regs [(1, 0xFF), (15, 1)]) 0x81F4).v[15] = 0x01 := by
  decide

/-- L1 entry 4, A18. -/
theorem test_sub : (run1 (regs [(1, 0x0A), (2, 0x0E)]) 0x8125).v[1] = 0xFC ∧
    (run1 (regs [(1, 0x0A), (2, 0x0E)]) 0x8125).v[15] = 0x00 ∧
    (run1 (regs [(1, 0x42), (2, 0x42)]) 0x8125).v[15] = 0x01 := by decide

/-- A20: X = F. -/
theorem test_sub_flag_last : (run1 (regs [(15, 5), (1, 3)]) 0x8F15).v[15] = 0x01 := by decide

/-- A22, A23: the source is VY. -/
theorem test_shr : (run1 (regs [(1, 0xAA), (2, 0x05)]) 0x8126).v[1] = 0x02 ∧
    (run1 (regs [(1, 0xAA), (2, 0x05)]) 0x8126).v[15] = 0x01 ∧ (run1 (regs [(1, 0xAA), (2, 0x05)]) 0x8126).v[2] = 0x05 ∧
    (run1 (regs [(1, 0x01)]) 0x8126).v[15] = 0x00 := by decide

/-- A27, A28. -/
theorem test_subn : (run1 (regs [(1, 0x0E), (2, 0x0A)]) 0x8127).v[1] = 0xFC ∧
    (run1 (regs [(1, 0x0E), (2, 0x0A)]) 0x8127).v[15] = 0x00 ∧ (run1 (regs [(1, 0x0E), (2, 0x12)]) 0x8127).v[1] = 0x04 ∧
    (run1 (regs [(1, 0x0E), (2, 0x12)]) 0x8127).v[15] = 0x01 := by decide

/-- A31, A34: the source is VY. -/
theorem test_shl : (run1 (regs [(2, 0x81)]) 0x812E).v[1] = 0x02 ∧ (run1 (regs [(2, 0x81)]) 0x812E).v[15] = 0x01 ∧
    (run1 (regs [(1, 0x80), (2, 0x01)]) 0x812E).v[15] = 0x00 := by decide

/-- A36, A37, for whatever byte is drawn. -/
theorem test_rnd : (run1 State.reset 0xC30F).v[3] = Config.randByte 0 &&& 0x0F ∧
    (run1 State.reset 0xC300).v[3] = 0x00 := by
  have h : (run1 State.reset 0xC300).v[3] = Config.randByte 0 &&& 0x00 := rfl
  exact ⟨rfl, by rw [h]; simp⟩

/-! ## The index register and memory transfers (L2.4) -/

/-- M1. -/
theorem test_ld_i : (run1 State.reset 0xAFFF).i = 0x0FFF := by decide

/-- M3, M4. -/
theorem test_add_i : (run1 { regs [(0, 1)] with i := 0x0FFF } 0xF01E).i = 0x1000 ∧
    (run1 { regs [(0, 1)] with i := 0xFFFF } 0xF01E).i = 0x0000 := by decide

/-- M5 to M8, for the illustrative parameters. -/
theorem test_glyph_address : glyphAddress 0x050 5 0x00 = 0x0050 ∧ glyphAddress 0x050 5 0x0F = 0x009B ∧
    glyphAddress 0x050 5 0x10 = 0x00A0 ∧ glyphAddress 0x050 5 0xFF = 0x054B := by decide

/-- FX29 takes the core's own parameters, whatever they are (R202). -/
theorem test_ld_f : (run1 (regs [(0, 0x10)]) 0xF029).i = glyphAddress fontBase glyphStride 0x10 := rfl

/-- The bytes of memory in 0x300 to 0x302. -/
def threeBytes (s : State) : List Byte := [Memory.read s.mem 0x300, Memory.read s.mem 0x301, Memory.read s.mem 0x302]

/-- M9, M11. -/
theorem test_bcd : threeBytes (run1 { regs [(0, 0x9C)] with i := 0x300 } 0xF033) = [1, 5, 6] ∧
    threeBytes (run1 { poke State.reset 0x300 [0xAA, 0xAA, 0xAA] with i := 0x300 } 0xF033) = [0, 0, 0] := by decide

/-- M14: nothing is stored. -/
theorem test_bcd_bounds : (run1 { regs [(0, 0x7B)] with i := 0xFFE } 0xF033).outcome = some .boundsFault ∧
    (run1 { regs [(0, 0x7B)] with i := 0xFFE } 0xF033).pc = 0x202 ∧
    Memory.read (run1 { regs [(0, 0x7B)] with i := 0xFFE } 0xF033).mem 0xFFE = 0x00 := by decide

/-- M15. -/
theorem test_store : threeBytes (run1 { regs [(0, 1), (1, 2), (2, 3)] with i := 0x300 } 0xF255) = [1, 2, 3] ∧
    (run1 { regs [(0, 1), (1, 2), (2, 3)] with i := 0x300 } 0xF255).i = 0x303 := by decide

/-- M19. -/
theorem test_store_bounds : (run1 { State.reset with i := 0xFFFF } 0xF055).outcome = some .boundsFault ∧
    (run1 { State.reset with i := 0xFFFF } 0xF055).i = 0xFFFF := by decide

/-- M20. -/
theorem test_load : (run1 { poke (regs [(3, 9)]) 0x300 [2, 5, 4] with i := 0x300 } 0xF265).v.toList.take 4 = [2, 5, 4, 9] ∧
    (run1 { poke (regs [(3, 9)]) 0x300 [2, 5, 4] with i := 0x300 } 0xF265).i = 0x303 := by decide

/-- M22. -/
theorem test_load_bounds : (run1 { regs [(0, 7)] with i := 0x1000 } 0xF065).outcome = some .boundsFault ∧
    (run1 { regs [(0, 7)] with i := 0x1000 } 0xF065).v[0] = 7 ∧
    (run1 { regs [(0, 7)] with i := 0x1000 } 0xF065).i = 0x1000 := by decide

/-! ## The framebuffer unit (L2.5) -/

/-- D1. -/
theorem test_cls : (run1 { State.reset with fb := setPixel State.reset.fb 5 5 true } 0x00E0).fb = State.reset.fb ∧
    (run1 { State.reset with fb := setPixel State.reset.fb 5 5 true } 0x00E0).render = true := by decide

/-- A state with I at 0x300 and one sprite byte there. -/
def sprite (s : State) (b : Byte) : State := { poke s 0x300 [b] with i := 0x300 }

/-- D6, D10, D9: clipped at the right and the bottom edge; a collision needs a set sprite bit, and bit 6 is column 1. -/
theorem test_draw : (run1 (sprite (regs [(0, 0xFF), (1, 0xFF)]) 0xFF) 0xD011).fb =
      State.reset.fb.set 31 (BitVec.twoPow 64 63) ∧
    (run1 { sprite State.reset 0x40 with fb := setPixel State.reset.fb 0 0 true } 0xD011).fb =
      setPixel (setPixel State.reset.fb 0 0 true) 1 0 true ∧
    (run1 { sprite State.reset 0x40 with fb := setPixel State.reset.fb 0 0 true } 0xD011).v[15] = 0 ∧
    (run1 { sprite State.reset 0x80 with fb := setPixel State.reset.fb 0 0 true } 0xD011).fb = State.reset.fb ∧
    (run1 { sprite State.reset 0x80 with fb := setPixel State.reset.fb 0 0 true } 0xD011).v[15] = 1 := by decide

/-- D11, D12, D13, D14: the bounds check is on the drawn rows alone, the origin is VF before the clear, and N = 0 reads no
row. -/
theorem test_draw_edges : (run1 { poke State.reset 0xFFF [0x80] with i := 0xFFF } 0xD012).outcome = some .boundsFault ∧
    (run1 { poke (regs [(1, 31)]) 0xFFF [0x80] with i := 0xFFF } 0xD012).outcome = none ∧
    pixelAt (run1 { poke (regs [(1, 31)]) 0xFFF [0x80] with i := 0xFFF } 0xD012).fb 0 31 = true ∧
    pixelAt (run1 (sprite (regs [(15, 8)]) 0x80) 0xDF11).fb 8 0 = true ∧
    (run1 { regs [(15, 1)] with i := 0x1000 } 0xD010).v[15] = 0 ∧
    (run1 { regs [(15, 1)] with i := 0x1000 } 0xD010).render = true := by decide

/-! ## Keys, timers and the host (L2.6) -/

/-- K1, K2, K5. -/
theorem test_skp : (run1 (withKey 5 (regs [(4, 5)])) 0xE49E).pc = 0x204 ∧ (run1 (regs [(4, 5)]) 0xE49E).pc = 0x202 ∧
    (run1 (regs [(0, 0x10)]) 0xE09E).outcome = some .boundsFault := by decide

/-- K3, K4, K6. -/
theorem test_sknp : (run1 (regs [(4, 5)]) 0xE4A1).pc = 0x204 ∧ (run1 (withKey 5 (regs [(4, 5)])) 0xE4A1).pc = 0x202 ∧
    (run1 (regs [(0, 0xFF)]) 0xE0A1).outcome = some .boundsFault := by decide

/-- L1 entry 11, K8, K9. -/
theorem test_key_wait : (run1 (withKey 9 (withKey 5 State.reset)) 0xF00A).v[0] = 5 ∧
    (run1 (withKey 15 (withKey 0 (regs [(15, 3)]))) 0xFF0A).v[15] = 0 ∧ (run1 (atPc 0xFFE) 0xF00A).pc = 0xFFE ∧
    (run1 (atPc 0xFFE) 0xF00A).outcome = none := by decide

/-- K10. -/
theorem test_read_dt : (run1 { State.reset with dt := 0x3C } 0xF207).v[2] = 0x3C ∧
    (run1 { State.reset with dt := 0x3C } 0xF207).dt = 0x3C := by decide

/-- R244's example, K11. -/
theorem test_write_dt : (run1 (regs [(2, 0x3C)]) 0xF215).dt = 0x3C ∧
    (run1 { State.reset with dt := 0x10 } 0xF215).dt = 0x00 := by decide

/-- K12. -/
theorem test_write_st : (run1 (regs [(2, 5)]) 0xF218).st = 5 ∧ soundActive (run1 (regs [(2, 5)]) 0xF218) = true := by
  decide

/-- K13, K14, L1 entry 13. -/
theorem test_tick : (tickTimers { State.reset with dt := 5 }).dt = 4 ∧ (tickTimers { State.reset with dt := 5 }).st = 0 ∧
    soundActive (tickTimers { State.reset with st := 1 }) = false := by decide

/-- K15. -/
theorem test_read_render : (hostReadRender { State.reset with render := true }).2 = true ∧
    (hostReadRender (hostReadRender { State.reset with render := true }).1).2 = false := by decide

/-- K16. -/
theorem test_read_fb : (readFb { State.reset with fb := setPixel State.reset.fb 3 1 true })[67]? = some 1 := by
  rw [readFb, List.getElem?_map, List.getElem?_range (by decide)]
  decide

/-- L1 entry 10, K19: LOAD. -/
theorem test_load_rom : (hostLoad (some [0x12, 0x34]) twoCalls).1 = poke State.reset 0x200 [0x12, 0x34] ∧
    (hostLoad (some []) twoCalls) = (State.reset, .ok) ∧ (hostLoad none twoCalls) = (State.reset, .notFound) := by decide

/-- L1 entry 10: one byte too many. -/
theorem test_load_too_large : (hostLoad (some (List.replicate 3585 0)) twoCalls) = (State.reset, .tooLarge) := by
  simp only [hostLoad, List.length_replicate]
  rfl

/-- R260, R303: the numeric codes. -/
theorem test_codes : [none, some Fault.unknownOpcode, some .stackOverflow, some .stackUnderflow, some .pcOverflow,
      some .boundsFault].map outcomeCode = [0, 1, 2, 3, 4, 5] ∧
    [LoadResult.ok, .notFound, .tooLarge].map LoadResult.code = [0, 1, 2] := by decide

/-! ## Witnesses: the hypotheses of each statement that has some can be met -/

theorem witness_EncodeOfDecodeIsIdentity : decode 0xD123 = .instr (.drw 1 2 3) ∧ encode (.drw 1 2 3) = 0xD123 := by
  decide

theorem witness_NoWordMatchesTwoRows : (⟨"ADD_Vx__Vy", 0xF00F, 0x8004⟩ : OpcodeRow) ∈ opcodeRows ∧
    (⟨"ADD_Vx__Vy", 0xF00F, 0x8004⟩ : OpcodeRow).matchesWord 0x8124 = true := by decide

/-- Each space of R96 at its lowest and highest value, and the words next to it that are instructions. -/
theorem witness_IllegalSpaceIsExact :
    [0x0000, 0x00DF, 0x00E1, 0x00ED, 0x00EF, 0x0FFF].all (fun w => decode w == .illegal .unmappedZero) = true ∧
    [0x5001, 0x5FFF].all (fun w => decode w == .illegal .skipEqualNibble) = true ∧
    [0x8008, 0x8FFD, 0x8FFF].all (fun w => decode w == .illegal .unmappedAlu) = true ∧
    [0x9001, 0x9FFF].all (fun w => decode w == .illegal .skipDiffersNibble) = true ∧
    [0xE000, 0xE09D, 0xE09F, 0xE0A0, 0xE0A2, 0xEFFF].all (fun w => decode w == .illegal .unmappedKey) = true ∧
    [0xF000, 0xF006, 0xF008, 0xF064, 0xF066, 0xFFFF].all (fun w => decode w == .illegal .unmappedMisc) = true := by
  decide

/-- An instruction whose step ends in memory, and at 0xFFE one whose step overflows. -/
theorem witness_StepRunsDecodedInstruction :
    ((atPc 0xFFE).pc.toNat + 1 < 4096 ∧ fetchWord (placed (atPc 0xFFE) 0x6A77) = 0x6A77 ∧
      decode 0x6A77 = .instr (.ldByte 10 0x77) ∧
      exec (.ldByte 10 0x77) { placed (atPc 0xFFE) 0x6A77 with pc := 0x1000 } =
        .next { placed (atPc 0xFFE) 0x6A77 with v := State.reset.v.set 10 0x77, pc := 0x1000 }) ∧
    (exec (.jp 0xFFF) { placed State.reset 0x1FFF with pc := 0x202 } = .next { placed State.reset 0x1FFF with pc := 0xFFF }) := by
  exact ⟨⟨by decide, by decide, by decide, rfl⟩, rfl⟩

theorem witness_FetchOutsideMemoryIsBoundsFault : 4096 ≤ (atPc 0xFFF).pc.toNat + 1 ∧ 4096 ≤ (atPc 0xFFFF).pc.toNat + 1 := by
  decide

theorem witness_UnknownOpcodeChangesOnlyPc :
    ((atPc 0xFFE).pc.toNat + 1 < 4096 ∧ fetchWord (atPc 0xFFE) = 0x0000 ∧ wellFormedWord 0x0000 = false) ∧
    (State.reset.pc.toNat + 1 < 4096 ∧ fetchWord State.reset = 0x0000) := by decide

/-- The three places PC can be after a fault. -/
theorem witness_FaultChangesNothingButPc :
    (step (atPc 0xFFF) = .next { atPc 0xFFF with outcome := some .boundsFault }) ∧
    (step (atPc 0xFFE) = .next { atPc 0x200 with outcome := some .unknownOpcode }) ∧
    step State.reset = .next { atPc 0x202 with outcome := some .unknownOpcode } := ⟨rfl, rfl, rfl⟩

theorem witness_OutcomeTellsWherePcIs :
    (step (placed State.reset 0x1FFF) = .next { placed State.reset 0x1FFF with pc := 0xFFF }) ∧
    step (placed (atPc 0xFFE) 0x6000) =
      .next { placed (atPc 0xFFE) 0x6000 with pc := 0x200, outcome := some .pcOverflow } := ⟨rfl, rfl⟩

/-- One of the two font cases of reset holds, whichever the open parameter says, and the clauses exclude each other; the
address after the font lies outside it. -/
theorem witness_ResetState : (fontPresent = false ∨ fontPresent = true) ∧
    fontBase + 16 * glyphStride ≤ fontBase + 16 * glyphStride ∧ 0x200 ≤ 0xFFF := by
  refine ⟨?_, Nat.le_refl _, by decide⟩
  cases fontPresent <;> decide

theorem witness_StepKeepsInvariant : StateInv (atPc 0xFFE) ∧
    step (atPc 0xFFE) = .next { atPc 0x200 with outcome := some .unknownOpcode } :=
  ⟨⟨by decide, by decide, by decide⟩, rfl⟩

theorem witness_HostOperationsKeepInvariant :
    (∀ op ∈ [HostOp.load (some [0x12, 0x00]), .tick, .step], ∀ ws : List StateWrite, op ≠ .writeState ws) ∧
    StateInv State.reset := ⟨by simp, by decide, by decide, by decide⟩

/-- The bound is reached: BNNN with NNN = 0xFFF and V0 = 0xFF (F27). -/
theorem witness_ExecutedPcIsAtMost10FE : StateInv (regs [(0, 0xFF)]) ∧ (regs [(0, 0xFF)]).pc.toNat + 1 < 4096 ∧
    exec (.jpV0 0xFFF) { regs [(0, 0xFF)] with pc := 0x202 } = .next { regs [(0, 0xFF)] with pc := 0x10FE } :=
  ⟨⟨by decide, by decide, by decide⟩, by decide, rfl⟩

/-- A canonical memory, and a write at the last address and past it. -/
theorem witness_ReadReturnsLastWrite : Memory.wf [(0x300, 1)] = true ∧
    Memory.read (Memory.write [(0x300, 1)] 0xFFF 7) 0xFFF = 7 ∧ Memory.write [(0x300, 1)] 0x1000 7 = [(0x300, 1)] ∧
    Memory.write [(0x300, 1)] 0x300 0 = [] := by decide

theorem witness_CanonicalMemoriesAreEqual : Memory.wf (Memory.write (Memory.write [] 0x301 2) 0x300 1) = true ∧
    Memory.wf [(0x300, 1), (0x301, 2)] = true ∧
    ∀ a : Nat, Memory.read (Memory.write (Memory.write [] 0x301 2) 0x300 1) a = Memory.read [(0x300, 1), (0x301, 2)] a :=
  ⟨by decide, by decide, fun _ => rfl⟩

/-- 00E0 is none of the excluded instructions of KeysAreOnlyRead, MemoryAccessingInstructions, StackAccessingInstructions,
TimerAccessingInstructions, FlagWritingInstructions and IndexWritingInstructions, and it goes on. -/
theorem witness_accesses_cls : exec .cls State.reset = .next { State.reset with render := true } ∧
    (∀ (x y : Reg) (n : Fin 16) (a : Addr12), Instr.cls ≠ .skp x ∧ Instr.cls ≠ .sknp x ∧ Instr.cls ≠ .ldVxK x ∧
      Instr.cls ≠ .ldB x ∧ Instr.cls ≠ .storeRegs x ∧ Instr.cls ≠ .loadRegs x ∧ Instr.cls ≠ .drw x y n ∧
      Instr.cls ≠ .ret ∧ Instr.cls ≠ .call a ∧ Instr.cls ≠ .ldDtVx x ∧ Instr.cls ≠ .ldStVx x ∧ Instr.cls ≠ .ldVxDt x ∧
      Instr.cls ≠ .ldI a ∧ Instr.cls ≠ .addI x ∧ Instr.cls ≠ .ldF x) ∧
    (∀ (x y : Reg), Instr.cls ≠ .addReg x y ∧ Instr.cls ≠ .subReg x y ∧ Instr.cls ≠ .shrReg x y ∧
      Instr.cls ≠ .subnReg x y ∧ Instr.cls ≠ .shlReg x y) := ⟨rfl, by simp, by simp⟩

/-- 1NNN is none of the excluded instructions of FramebufferAccessingInstructions and RenderFlagRules, and it goes on; 00E0
and DXYN with N = 0 complete. -/
theorem witness_accesses_jp : exec (.jp 0x300) State.reset = .next { State.reset with pc := 0x300 } ∧
    Instr.jp 0x300 ≠ .cls ∧ (∀ (x y : Reg) (n : Fin 16), Instr.jp 0x300 ≠ .drw x y n) ∧
    (goesOn (exec (.drw 0 1 0) State.reset)).outcome = none := ⟨rfl, by simp, by simp, by decide⟩

/-- The timer writers themselves (TimerAccessingInstructions). -/
theorem witness_TimerAccessingInstructions :
    exec (.ldDtVx 0) State.reset = .next State.reset ∧ exec (.ldStVx 0) State.reset = .next State.reset := ⟨rfl, rfl⟩

theorem witness_CallPushesReturnAddress : State.reset.sp.val < 16 ∧ ({ State.reset with sp := 15 } : State).sp.val < 16 ∧
    ({ State.reset with sp := 16 } : State).sp.val = 16 := by decide

theorem witness_ReturnPopsAddress : twoCalls.sp.val = (1 : Fin 16).val + 1 ∧
    ({ State.reset with sp := 16 } : State).sp.val = (15 : Fin 16).val + 1 ∧ State.reset.sp.val = 0 := by decide

theorem witness_ReturnUndoesCall : State.reset.sp.val < 16 ∧
    exec (.call 0x300) (atPc 0x206) =
      .next { State.reset with pc := 0x300, sp := 1, stack := State.reset.stack.set 0 0x206 } := ⟨by decide, rfl⟩

/-- An address whose last byte is 0xFFF, and the one above it (BcdStoresThreeDigits, BlockStoreWritesRegisters,
BlockLoadReadsRegisters, TransferOutsideMemoryIsBoundsFault). -/
theorem witness_transfers : Memory.wf State.reset.mem = true ∧
    ({ State.reset with i := 0xFFD } : State).i.toNat + 2 < 4096 ∧
    4096 ≤ ({ State.reset with i := 0xFFE } : State).i.toNat + 2 ∧
    ({ State.reset with i := 0xFF0 } : State).i.toNat + (15 : Reg).val < 4096 ∧
    4096 ≤ ({ State.reset with i := 0xFF1 } : State).i.toNat + (15 : Reg).val := by decide

/-- V0 and V1 stored at 0x208, where PC stands. -/
theorem witness_StoredBytesAreFetched :
    Memory.wf State.reset.mem = true ∧
    exec (.storeRegs 1) { regs [(0, 0x71), (1, 0x05)] with i := 0x208, pc := 0x208 } =
      .next { regs [(0, 0x71), (1, 0x05)] with i := 0x20A, pc := 0x208, mem := [(0x208, 0x71), (0x209, 0x05)] } ∧
    (0 : Reg) < 1 ∧ ({ State.reset with pc := 0x208 } : State).pc.toNat = 0x208 + (0 : Reg).val :=
  ⟨by decide, rfl, by decide, by decide⟩

/-- Two rows at 0xFFE that fit, two at 0xFFF of which the second does not, and two at 0xFFF of which the second is clipped
(DrawXorsSpriteAndReportsCollision, DrawOutsideMemoryIsBoundsFault). -/
theorem witness_draws :
    (∀ r : Nat, r < (2 : Fin 16).val → (readV 1 State.reset).toNat % 32 + r < 32 →
      ({ State.reset with i := 0xFFE } : State).i.toNat + r < 4096) ∧
    ((1 : Nat) < (2 : Fin 16).val ∧ (readV 1 State.reset).toNat % 32 + 1 < 32 ∧
      4096 ≤ ({ State.reset with i := 0xFFF } : State).i.toNat + 1) ∧
    ∀ r : Nat, r < (2 : Fin 16).val → (readV 1 (regs [(1, 31)])).toNat % 32 + r < 32 →
      ({ regs [(1, 31)] with i := 0xFFF } : State).i.toNat + r < 4096 := by decide

/-- The first draw of D3. -/
theorem witness_DrawingTwiceRestoresScreen : (0 : Reg) ≠ 15 ∧ (1 : Reg) ≠ 15 ∧
    exec (.drw 0 1 1) (sprite State.reset 0x80) =
      .next { sprite State.reset 0x80 with fb := setPixel State.reset.fb 0 0 true, render := true } :=
  ⟨by decide, by decide, rfl⟩

/-- Key numbers 0, 15 and 16. -/
theorem witness_KeySkipsReadLatch : (readV 0 State.reset).toNat = (0 : Fin 16).val ∧
    (readV 0 (regs [(0, 15)])).toNat = (15 : Fin 16).val ∧ 16 ≤ (readV 0 (regs [(0, 16)])).toNat := by decide

/-- Only key 15 pressed, key 0 pressed, and none. -/
theorem witness_KeyWaitTakesLowestKeyOrRepeats :
    ((withKey 15 State.reset).keys[(15 : Fin 16).val] = true ∧
      ∀ j : Fin 16, j < 15 → (withKey 15 State.reset).keys[j.val] = false) ∧
    ((withKey 0 State.reset).keys[(0 : Fin 16).val] = true ∧
      ∀ j : Fin 16, j < 0 → (withKey 0 State.reset).keys[j.val] = false) ∧
    ∀ k : Fin 16, State.reset.keys[k.val] = false := by decide

theorem witness_KeyWaitStepLeavesStateUnchanged : (atPc 0xFFE).pc.toNat + 1 < 4096 ∧
    fetchWord (placed (atPc 0xFFE) 0xF00A) = encode (.ldVxK 0) ∧
    ∀ k : Fin 16, (placed (atPc 0xFFE) 0xF00A).keys[k.val] = false := by decide

/-- Column 63, row 31 lies on the screen; a state reads as itself (HostPortsReadAndSetState). -/
theorem witness_HostPortsReadAndSetState : 63 < 64 ∧ 31 < 32 ∧ readState State.reset = readState (regs []) ∧
    State.reset.draws = (regs []).draws := by decide

/-- The premise holds at reset and after a write at the last address; the pixel at column 63, row 31 lies on the screen. -/
theorem witness_WriteStateReadsBack : Memory.wf State.reset.mem = true ∧
    Memory.wf (hostWriteState [.mem 0xFFF 7, .sp 16] State.reset).mem = true ∧
    (hostWriteState [.mem 0xFFF 7, .sp 16] State.reset).sp = 16 ∧ 63 < 64 ∧ 31 < 32 := by decide

/-- The largest program that LOAD accepts, and one byte more; addresses on both sides of a two-byte program. -/
theorem witness_LoadResetsAndCopiesProgram : (List.replicate 3584 (0xAA : Byte)).length ≤ 3584 ∧
    3584 < (List.replicate 3585 (0xAA : Byte)).length ∧ 0x1FF < 0x200 ∧ 0x200 + [(0x12 : Byte), 0x34].length ≤ 0x202 := by
  simp only [List.length_replicate]
  decide

end Sys2Proof.Tests
end

namespace Sys2Proof.Machine

/-! ### An update of the next state a result holds -/

/-- Apply an update to the next state of a result; a stop stays as it is. -/
def mapNext (g : State → State) : Result → Result
  | .next s    => .next (g s)
  | .fault f   => .fault f
  | .refused r => .refused r

@[simp] theorem mapNext_next (g : State → State) (s : State) : mapNext g (.next s) = .next (g s) := rfl

theorem mapNext_ite (g : State → State) (c : Prop) [Decidable c] (a b : Result) :
    mapNext g (if c then a else b) = if c then mapNext g a else mapNext g b := apply_ite (mapNext g) c a b

theorem mapNext_dite (g : State → State) (c : Prop) [Decidable c] (a : c → Result) (b : ¬ c → Result) :
    mapNext g (if h : c then a h else b h) = if h : c then mapNext g (a h) else mapNext g (b h) :=
  apply_dite (mapNext g) c a b

/-- An update that leaves a result as it is leaves its next state as it is. -/
theorem eq_of_mapNext_fixes {g : State → State} {r : Result} {t : State} (hg : r = mapNext g r) (h : r = .next t) :
    t = g t := by
  subst h; exact next_inj.mp hg

/-! ### Instructions that read neither the key latch nor the screen -/

/-- The state with another framebuffer and another RENDER (R28, R29). -/
def setScreen (fb : Framebuffer) (b : Bool) (s : State) : State := { s with fb := fb, render := b }

@[simp] theorem loadV_hostSetKeys (ks : Vector Bool 16) (s : State) (rs : List Reg) :
    loadV (hostSetKeys ks s) rs = hostSetKeys ks (loadV s rs) :=
  List.foldl_hom (hostSetKeys ks) fun _ _ => rfl

@[simp] theorem loadV_setScreen (fb : Framebuffer) (b : Bool) (s : State) (rs : List Reg) :
    loadV (setScreen fb b s) rs = setScreen fb b (loadV s rs) :=
  List.foldl_hom (setScreen fb b) fun _ _ => rfl

@[simp] theorem firstPressedKey_setScreen (fb : Framebuffer) (b : Bool) (s : State) :
    firstPressedKey (setScreen fb b s) = firstPressedKey s := rfl

/-- Another key latch in, the same latch out and nothing else different, for every instruction but the three readers of
the latch (R30). -/
theorem exec_hostSetKeys {i : Instr} (hi : ∀ x : Reg, i ≠ .skp x ∧ i ≠ .sknp x ∧ i ≠ .ldVxK x) (ks : Vector Bool 16)
    (s : State) : exec i (hostSetKeys ks s) = mapNext (hostSetKeys ks) (exec i s) := by
  cases i with
  | skp x => exact absurd rfl (hi x).1
  | sknp x => exact absurd rfl (hi x).2.1
  | ldVxK x => exact absurd rfl (hi x).2.2
  | ret => simp only [exec, execRet, mapNext_ite]; rfl
  | call nnn => simp only [exec, execCall, mapNext_dite]; rfl
  | drw x y n => simp only [exec, execDrw, mapNext_ite]; rfl
  | ldB x => simp only [exec, execLdB, mapNext_ite]; rfl
  | storeRegs x => simp only [exec, execStoreRegs, mapNext_ite]; rfl
  | loadRegs x => simp only [exec, execLoadRegs, loadV_hostSetKeys, mapNext_ite]; rfl
  | _ => rfl

/-- Another framebuffer and RENDER in, the same out and nothing else different, for every instruction but 00E0 and DXYN
(R28, R29). -/
theorem exec_setScreen {i : Instr} (hc : i ≠ .cls) (hd : ∀ (x y : Reg) (n : Fin 16), i ≠ .drw x y n)
    (fb : Framebuffer) (b : Bool) (s : State) :
    exec i (setScreen fb b s) = mapNext (setScreen fb b) (exec i s) := by
  cases i with
  | cls => exact absurd rfl hc
  | drw x y n => exact absurd rfl (hd x y n)
  | ret => simp only [exec, execRet, mapNext_ite]; rfl
  | call nnn => simp only [exec, execCall, mapNext_dite]; rfl
  | skp x => simp only [exec, execSkp, mapNext_ite]; rfl
  | sknp x => simp only [exec, execSknp, mapNext_ite]; rfl
  | ldVxK x => simp only [exec, execLdVxK, firstPressedKey_setScreen]; split <;> rfl
  | ldB x => simp only [exec, execLdB, mapNext_ite]; rfl
  | storeRegs x => simp only [exec, execStoreRegs, mapNext_ite]; rfl
  | loadRegs x => simp only [exec, execLoadRegs, loadV_setScreen, mapNext_ite]; rfl
  | _ => rfl

/-! ### The key latch (R30) -/

/-- An instruction leaves the key latch as it found it: the three readers of the latch write only V and PC, and any other
would hand on whatever latch it is given. -/
theorem exec_keys {i : Instr} {s t : State} (h : exec i s = .next t) : t.keys = s.keys := by
  cases i with
  | skp x => simp only [exec, execSkp] at h; split at h <;> cases h <;> rfl
  | sknp x => simp only [exec, execSknp] at h; split at h <;> cases h <;> rfl
  | ldVxK x => simp only [exec, execLdVxK] at h; split at h <;> cases h <;> rfl
  | _ => rw [eq_of_mapNext_fixes (exec_hostSetKeys (by intro; simp) s.keys s) h]; rfl

theorem step_keys {s t : State} (h : step s = .next t) : t.keys = s.keys := by
  obtain ⟨-, rfl⟩ | ⟨-, u, hu, rfl⟩ := step_cases h
  · rfl
  · rw [postCheck_keys]
    obtain ⟨-, rfl⟩ | ⟨i, -, hi⟩ := executeWord_cases hu
    · rfl
    · exact (exec_keys hi).trans (advancePc_keys s)

/-! ### The screen (R28, R29) -/

/-- Only 00E0 and DXYN write the framebuffer and RENDER: any other instruction would hand on whatever it is given. -/
theorem exec_screen {i : Instr} {s t : State} (hc : i ≠ .cls) (hd : ∀ (x y : Reg) (n : Fin 16), i ≠ .drw x y n)
    (h : exec i s = .next t) : t.fb = s.fb ∧ t.render = s.render := by
  rw [eq_of_mapNext_fixes (exec_setScreen hc hd s.fb s.render s) h]; exact ⟨rfl, rfl⟩

theorem exec_setRender {i : Instr} {s t : State} (hc : i ≠ .cls) (hd : ∀ (x y : Reg) (n : Fin 16), i ≠ .drw x y n)
    (h : exec i s = .next t) (b : Bool) : exec i { s with render := b } = .next { t with render := b } := by
  obtain ⟨hfb, -⟩ := exec_screen hc hd h
  calc exec i (setScreen s.fb b s)
      = mapNext (setScreen s.fb b) (exec i s) := exec_setScreen hc hd s.fb b s
    _ = .next (setScreen s.fb b t) := by rw [h, mapNext_next]
    _ = .next { t with render := b } := by rw [← hfb]; rfl

/-- A DXYN that completes sets RENDER whatever it was; one that takes its fault leaves it as it was. -/
theorem exec_drw_render {x y : Reg} {n : Fin 16} {s t : State} (h : exec (.drw x y n) s = .next t) :
    (t.render = true ∧ ∀ b, exec (.drw x y n) { s with render := b } = .next t) ∨
    (t.outcome = some .boundsFault ∧ ∀ b, exec (.drw x y n) { s with render := b } = .next { t with render := b }) := by
  simp only [exec, execDrw] at h
  split at h
  next hm => cases h; exact .inl ⟨rfl, fun _ => if_pos hm⟩
  next hm => cases h; exact .inr ⟨rfl, fun _ => if_neg hm⟩

/-- No instruction reads RENDER: with another value of it, the next state differs in RENDER alone. -/
theorem exec_render_unread {i : Instr} {s t : State} (h : exec i s = .next t) (b : Bool) :
    ∃ c : Bool, exec i { s with render := b } = .next { t with render := c } := by
  cases i with
  | cls => cases h; exact ⟨true, rfl⟩
  | drw x y n =>
    obtain ⟨-, hd⟩ | ⟨-, hd⟩ := exec_drw_render h
    · exact ⟨t.render, hd b⟩
    · exact ⟨b, hd b⟩
  | _ => exact ⟨b, exec_setRender (by simp) (by simp) h b⟩

/-- 00E0 sets RENDER, and so does a DXYN that completes. -/
theorem render_of_completed {i : Instr} {s t : State} (hi : i = .cls ∨ ∃ (x y : Reg) (n : Fin 16), i = .drw x y n)
    (h : exec i s = .next t) (ho : t.outcome = none) : t.render = true := by
  obtain rfl | ⟨x, y, n, rfl⟩ := hi
  · cases h; rfl
  · obtain ⟨hr, -⟩ | ⟨hf, -⟩ := exec_drw_render h
    · exact hr
    · simp [ho] at hf

end Sys2Proof.Machine

section
open Sys2Proof Sys2Proof.Machine

/-- Settles O22: the host's SET_KEYS writes the latch, a step keeps it, and the instructions but its three readers work the
same with any latch. -/
theorem keysAreOnlyRead : Obligations.KeysAreOnlyRead := by
  unfold Obligations.KeysAreOnlyRead
  refine ⟨fun s ks => ⟨hostSetKeys ks s, rfl, rfl⟩, fun _ _ => step_keys, fun i s t ks hi h => ?_⟩
  exact (exec_hostSetKeys hi ks s).trans (congrArg (mapNext (hostSetKeys ks)) h)

/-- Settles O25: who sets RENDER, who leaves it, that no instruction reads it, and READ_RENDER. -/
theorem renderFlagRules : Obligations.RenderFlagRules := by
  unfold Obligations.RenderFlagRules
  exact ⟨fun _ _ _ => render_of_completed, fun _ _ _ hc hd h => (exec_screen hc hd h).2,
    fun _ _ _ b h => exec_render_unread h b, fun _ => rfl⟩

end

namespace Sys2Proof

/-! ### The overlap of the operand fields (R91) -/

theorem nn_eq_y_n (op : Word) : (fieldsOf op).nn.toNat = (fieldsOf op).y.val * 16 + (fieldsOf op).n.val := by
  rw [nn_toNat, y_val, n_val]; omega

theorem nnn_eq_x_y_n (op : Word) :
    (fieldsOf op).nnn.toNat = (fieldsOf op).x.val * 256 + (fieldsOf op).y.val * 16 + (fieldsOf op).n.val := by
  rw [nnn_toNat, x_val, y_val, n_val]; omega

end Sys2Proof

section
open Sys2Proof

/-- Settles O6: each field is its bits of the word, so NN is Y and N side by side, and NNN is X, Y and N. -/
theorem fieldsAreTheOpcodeBits : Obligations.FieldsAreTheOpcodeBits := by
  unfold Obligations.FieldsAreTheOpcodeBits
  exact fun op => ⟨family_val op, x_val op, y_val op, n_val op, nn_toNat op, nnn_toNat op, nn_eq_y_n op, nnn_eq_x_y_n op⟩

end

namespace Sys2Proof.Machine

/-! ### A step whose fetch and decoding are known (R120) -/

/-- At a PC that can be fetched from, a word that decodes to `i` makes the step `i`, then the post-execute check. -/
theorem step_of_decode {s : State} {i : Instr} (hf : s.pc.toNat + 1 < 4096) (hd : decode (fetchWord s) = .instr i) :
    step s = afterExecute (exec i (advancePc s)) := by
  have hc : canFetch s = true := decide_eq_true hf
  simp only [step, if_pos hc, executeWord, hd]

/-! ### Waiting for a key (R130, R242) -/

theorem decode_encode_ldVxK (x : Reg) : decode (encode (.ldVxK x)) = .instr (.ldVxK x) := by
  obtain ⟨hfam, hx, hnn⟩ := fieldsOf_xsel (by decide) (opcodeXNN_toNat (f := 0xF) (nn := 0x0A) (by decide) (by decide) x)
  simp only [decode, encode, selectInstr, decodeMisc, hfam, hnn, hx]

theorem firstPressedKey_eq_none {s : State} (h : ∀ k : Fin 16, s.keys[k.val] = false) : firstPressedKey s = none := by
  refine List.find?_eq_none.mpr fun k hk => ?_
  have hlt : k < 16 := List.mem_range.mp hk
  simp [keyPressed, hlt, h ⟨k, hlt⟩]

/-- With no key pressed FX0A takes PC back by two, completes, and changes nothing else. -/
theorem exec_ldVxK_of_no_key (x : Reg) {s : State} (h : ∀ k : Fin 16, s.keys[k.val] = false) :
    exec (.ldVxK x) s = .next { s with pc := s.pc - 2, outcome := none } := by
  simp only [exec, execLdVxK, firstPressedKey_eq_none h, complete_eq]

end Sys2Proof.Machine

section
open Sys2Proof Sys2Proof.Machine

/-- Settles O55: FX0A takes back the two bytes the fetch moved PC on, so PC is A again, which lies in memory, and the
post-execute check does nothing. -/
theorem keyWaitStepLeavesStateUnchanged : Obligations.KeyWaitStepLeavesStateUnchanged := by
  unfold Obligations.KeyWaitStepLeavesStateUnchanged
  intro x s hf hw hk
  have hd : decode (fetchWord s) = .instr (.ldVxK x) := hw ▸ decode_encode_ldVxK x
  have hpc : s.pc + 2 - 2 = s.pc := BitVec.add_sub_cancel s.pc 2
  calc step s
      = afterExecute (exec (.ldVxK x) (advancePc s)) := step_of_decode hf hd
    _ = afterExecute (.next { s with pc := s.pc + 2 - 2, outcome := none }) :=
        congrArg afterExecute (exec_ldVxK_of_no_key x hk)
    _ = .next (postCheck { s with outcome := none }) := by rw [hpc, afterExecute_next]
    _ = .next { s with outcome := none } := next_inj.mpr (postCheck_of_lt (Nat.lt_of_succ_lt hf))

end

namespace Sys2Proof

/-! ### The words of the jumps and the skips (R95, R96) -/

theorem ofNat_nnn (f : Nat) (nnn : Addr12) : BitVec.ofNat 16 (f * 4096 + nnn.toNat) = opcodeNNN f nnn.toNat := rfl

/-- `opcodeXNN` as the statements write it, each field after its weight. -/
theorem ofNat_xnn (f : Nat) (x : Reg) (nn : Byte) :
    BitVec.ofNat 16 (f * 4096 + 256 * x.val + nn.toNat) = opcodeXNN f x nn.toNat := by
  rw [Nat.mul_comm 256]; rfl

/-- `opcodeXYN` as the statements write it, each field after its weight. -/
theorem ofNat_xyn (f : Nat) (x y n : Fin 16) :
    BitVec.ofNat 16 (f * 4096 + 256 * x.val + 16 * y.val + n.val) = opcodeXYN f x y n := by
  rw [Nat.mul_comm 256, Nat.mul_comm 16]; rfl

theorem decode_1nnn (nnn : Addr12) : decode (BitVec.ofNat 16 (0x1000 + nnn.toNat)) = .instr (.jp nnn) := by
  obtain ⟨hfam, hnnn⟩ := fieldsOf_nnn (opcodeNNN_toNat (f := 0x1) (by decide) nnn.isLt)
  rw [ofNat_nnn 0x1]
  simp only [decode, selectInstr, hfam, hnnn]

theorem decode_Bnnn (nnn : Addr12) : decode (BitVec.ofNat 16 (0xB000 + nnn.toNat)) = .instr (.jpV0 nnn) := by
  obtain ⟨hfam, hnnn⟩ := fieldsOf_nnn (opcodeNNN_toNat (f := 0xB) (by decide) nnn.isLt)
  rw [ofNat_nnn 0xB]
  simp only [decode, selectInstr, hfam, hnnn]

theorem decode_3xnn (x : Reg) (nn : Byte) :
    decode (BitVec.ofNat 16 (0x3000 + 256 * x.val + nn.toNat)) = .instr (.seByte x nn) := by
  obtain ⟨hfam, hx, hnn⟩ := fieldsOf_xnn (opcodeXNN_toNat (f := 0x3) (by decide) nn.isLt x)
  rw [ofNat_xnn 0x3]
  simp only [decode, selectInstr, hfam, hx, hnn]

theorem decode_4xnn (x : Reg) (nn : Byte) :
    decode (BitVec.ofNat 16 (0x4000 + 256 * x.val + nn.toNat)) = .instr (.sneByte x nn) := by
  obtain ⟨hfam, hx, hnn⟩ := fieldsOf_xnn (opcodeXNN_toNat (f := 0x4) (by decide) nn.isLt x)
  rw [ofNat_xnn 0x4]
  simp only [decode, selectInstr, hfam, hx, hnn]

theorem decode_5xyn (x y n : Fin 16) :
    decode (BitVec.ofNat 16 (0x5000 + 256 * x.val + 16 * y.val + n.val)) =
      if n = 0 then .instr (.seReg x y) else .illegal .skipEqualNibble := by
  obtain ⟨hfam, hx, hy, hn⟩ := fieldsOf_xyn (opcodeXYN_toNat (f := 0x5) (by decide) x y n)
  rw [ofNat_xyn 0x5]
  simp only [decode, selectInstr, hfam, hx, hy, hn]

theorem decode_9xyn (x y n : Fin 16) :
    decode (BitVec.ofNat 16 (0x9000 + 256 * x.val + 16 * y.val + n.val)) =
      if n = 0 then .instr (.sneReg x y) else .illegal .skipDiffersNibble := by
  obtain ⟨hfam, hx, hy, hn⟩ := fieldsOf_xyn (opcodeXYN_toNat (f := 0x9) (by decide) x y n)
  rw [ofNat_xyn 0x9]
  simp only [decode, selectInstr, hfam, hx, hy, hn]

end Sys2Proof

namespace Sys2Proof.Machine

/-! ### Completing with another PC (R24, R143) -/

theorem onlyPcChanged_setPc (w : Word) (s : State) : OnlyPcChanged s { s with pc := w, outcome := none } :=
  ⟨fun _ _ => rfl, rfl, rfl, rfl, rfl, rfl, ⟨rfl, rfl, rfl⟩, fun _ => rfl, rfl, rfl⟩

/-- A jump to a 16-bit target puts PC there, with no wrap, and completes with nothing else changed. -/
theorem complete_jumpTo {n : Nat} (hn : n < 2 ^ 16) (s : State) :
    ∃ t : State, complete (jumpTo n s) = .next t ∧ t.pc.toNat = n ∧ OnlyPcChanged s t :=
  ⟨_, rfl, Nat.mod_eq_of_lt hn, onlyPcChanged_setPc (trunc16 n) s⟩

theorem complete_skipIf (c : Bool) (s : State) :
    ∃ t : State, complete (skipIf c s) = .next t ∧ t.pc = (if c then s.pc + 2 else s.pc) ∧ OnlyPcChanged s t :=
  ⟨_, rfl, rfl, onlyPcChanged_setPc (if c then s.pc + 2 else s.pc) s⟩

/-- A skip where two bytes are equal (3XNN, 5XY0). -/
theorem complete_skipIf_beq (a b : Byte) (s : State) :
    ∃ t : State, complete (skipIf (a == b) s) = .next t ∧ t.pc = (if a = b then s.pc + 2 else s.pc) ∧
      OnlyPcChanged s t := by
  simpa only [beq_iff_eq] using complete_skipIf (a == b) s

/-- A skip where two bytes differ (4XNN, 9XY0). -/
theorem complete_skipIf_bne (a b : Byte) (s : State) :
    ∃ t : State, complete (skipIf (a != b) s) = .next t ∧ t.pc = (if a = b then s.pc else s.pc + 2) ∧
      OnlyPcChanged s t := by
  simpa only [bne_iff_ne, ne_eq, ite_not] using complete_skipIf (a != b) s

end Sys2Proof.Machine

section
open Sys2Proof Sys2Proof.Machine

/-- Settles O30: both are jumps, and NNN + V0 is at most 0xFFF + 0xFF, so that no target wraps. -/
theorem jumpsGoToTheirTarget : Obligations.JumpsGoToTheirTarget := by
  unfold Obligations.JumpsGoToTheirTarget
  intro nnn s
  have hn : nnn.toNat < 2 ^ 12 := nnn.isLt
  have hv : (readV 0 s).toNat < 2 ^ 8 := (readV 0 s).isLt
  exact ⟨⟨decode_1nnn nnn, complete_jumpTo (by omega) s⟩, ⟨decode_Bnnn nnn, complete_jumpTo (by omega) s⟩⟩

/-- Settles O34: 3XNN is a skip where VX and NN are equal, 4XNN one where they differ. -/
theorem byteSkips : Obligations.ByteSkips := by
  unfold Obligations.ByteSkips
  exact fun x nn s => ⟨⟨decode_3xnn x nn, complete_skipIf_beq (readV x s) nn s⟩,
    ⟨decode_4xnn x nn, complete_skipIf_bne (readV x s) nn s⟩⟩

/-- Settles O35: 5XY0 is a skip where VX and VY are equal, 9XY0 one where they differ, and in both families the low nibble
decides whether there is an instruction at all. -/
theorem registerSkips : Obligations.RegisterSkips := by
  unfold Obligations.RegisterSkips
  intro x y s
  refine ⟨⟨decode_5xyn x y 0, fun n hn => ?_, complete_skipIf_beq (readV x s) (readV y s) s⟩,
    ⟨decode_9xyn x y 0, fun n hn => ?_, complete_skipIf_bne (readV x s) (readV y s) s⟩⟩
  · rw [decode_5xyn, if_neg hn]
  · rw [decode_9xyn, if_neg hn]

end

namespace Sys2Proof

/-! ### The words of the register loads and the ALU (R95) -/

theorem decode_6xnn (x : Reg) (nn : Byte) :
    decode (BitVec.ofNat 16 (0x6000 + 256 * x.val + nn.toNat)) = .instr (.ldByte x nn) := by
  obtain ⟨hfam, hx, hnn⟩ := fieldsOf_xnn (opcodeXNN_toNat (f := 0x6) (by decide) nn.isLt x)
  rw [ofNat_xnn 0x6]
  simp only [decode, selectInstr, hfam, hx, hnn]

theorem decode_7xnn (x : Reg) (nn : Byte) :
    decode (BitVec.ofNat 16 (0x7000 + 256 * x.val + nn.toNat)) = .instr (.addByte x nn) := by
  obtain ⟨hfam, hx, hnn⟩ := fieldsOf_xnn (opcodeXNN_toNat (f := 0x7) (by decide) nn.isLt x)
  rw [ofNat_xnn 0x7]
  simp only [decode, selectInstr, hfam, hx, hnn]

/-- The second level of family 8 (R94): only X, Y and N matter, so any word's fields will do with these three put in, and
at a given N the right side computes to the instruction. -/
theorem decode_8xyn (x y n : Fin 16) :
    decode (BitVec.ofNat 16 (0x8000 + n.val + 256 * x.val + 16 * y.val)) =
      decodeAlu { fieldsOf 0x8000 with x := x, y := y, n := n } := by
  have hop : 0x8000 + n.val + 256 * x.val + 16 * y.val = 0x8 * 4096 + 256 * x.val + 16 * y.val + n.val := by omega
  obtain ⟨hfam, hx, hy, hn⟩ := fieldsOf_xyn (opcodeXYN_toNat (f := 0x8) (by decide) x y n)
  rw [hop, ofNat_xyn]
  simp only [decode, selectInstr, decodeAlu, hfam, hx, hy, hn]

/-! ### The model's byte arithmetic (R10) -/

theorem trunc8_toNat (n : Nat) : (trunc8 n).toNat = n % 256 := BitVec.toNat_ofNat n 8

/-- The model subtracts on natural numbers with 256 lent; modulo 256 this is the difference of the bytes. -/
theorem trunc8_lent_sub (a b : Byte) : trunc8 (a.toNat + 256 - b.toNat) = a - b := by
  have hb : b.toNat < 2 ^ 8 := b.isLt
  apply BitVec.eq_of_toNat_eq
  rw [trunc8_toNat, BitVec.toNat_sub]
  omega

end Sys2Proof

namespace Sys2Proof.Machine

/-! ### Completing with other V registers (R170, R185) -/

theorem onlyRegsChanged_setV {xs : List Reg} {v : Vector Byte 16} {s : State}
    (h : RegsUnchangedExcept xs s { s with v := v }) : OnlyRegsChanged xs s { s with v := v, outcome := none } :=
  ⟨h, rfl, rfl, rfl, rfl, rfl, rfl, ⟨rfl, rfl, rfl⟩, fun _ => rfl, rfl, rfl⟩

/-- An instruction that writes VX and no flag: VF keeps its value too, unless it is VX. -/
theorem complete_writeV (x : Reg) (b : Byte) (s : State) :
    ∃ t : State, complete (writeV x b s) = .next t ∧ readV x t = b ∧ OnlyRegsChanged [x] s t := by
  refine ⟨_, rfl, readV_writeV_same x b s, onlyRegsChanged_setV fun r hr => ?_⟩
  exact readV_writeV_ne (List.ne_of_not_mem_cons hr) b s

/-- An instruction that writes VX and then a flag: the flag stands in VF even where X = F (R185). -/
theorem complete_writeResultAndFlag (x : Reg) (b : Byte) (p : Prop) [Decidable p] (s : State) :
    ∃ t : State, complete (writeResultAndFlag x b (decide p) s) = .next t ∧ (x ≠ 15 → readV x t = b) ∧
      readV 15 t = (if p then 1 else 0) ∧ OnlyRegsChanged [x, 15] s t := by
  have hflag : flagByte (decide p) = if p then 1 else 0 := by simp only [flagByte, decide_eq_true_eq]
  refine ⟨_, rfl, fun hx => readV_writeResultAndFlag_result hx b (decide p) s,
    (readV_writeResultAndFlag x b (decide p) s).trans hflag, onlyRegsChanged_setV fun r hr => ?_⟩
  obtain ⟨hrx, hrf⟩ : r ≠ x ∧ r ≠ 15 := by simpa using hr
  exact readV_writeResultAndFlag_ne hrx hrf b (decide p) s

/-- A subtraction, of either order: the difference in VX, NOT borrow in VF (R177, R179). -/
theorem complete_sub (x : Reg) (a b : Byte) (s : State) :
    ∃ t : State, complete (writeResultAndFlag x (trunc8 (a.toNat + 256 - b.toNat)) (notBorrow a b) s) = .next t ∧
      (x ≠ 15 → readV x t = a - b) ∧ readV 15 t = (if a.toNat ≥ b.toNat then 1 else 0) ∧
      OnlyRegsChanged [x, 15] s t := by
  rw [trunc8_lent_sub]
  exact complete_writeResultAndFlag x (a - b) (a.toNat ≥ b.toNat) s

end Sys2Proof.Machine

section
open Sys2Proof Sys2Proof.Machine

/-- Settles O36: each of the three writes VX and no flag, 7XNN the sum truncated to a byte. -/
theorem registerLoadsAndImmediateAdd : Obligations.RegisterLoadsAndImmediateAdd := by
  unfold Obligations.RegisterLoadsAndImmediateAdd
  intro x y nn s
  refine ⟨⟨decode_6xnn x nn, complete_writeV x nn s⟩, ⟨decode_7xnn x nn, ?_⟩,
    ⟨decode_8xyn x y 0x0, complete_writeV x (readV y s) s⟩⟩
  obtain ⟨t, ht, hx, hrest⟩ := complete_writeV x (trunc8 ((readV x s).toNat + nn.toNat)) s
  exact ⟨t, ht, by rw [hx, trunc8_toNat], hrest⟩

/-- Settles O38: 8XY4 writes the sum truncated to a byte, then the carry of the operands as they were before. -/
theorem addWritesSumAndCarry : Obligations.AddWritesSumAndCarry := by
  unfold Obligations.AddWritesSumAndCarry
  intro x y s
  obtain ⟨t, ht, hx, hflag, hrest⟩ := complete_writeResultAndFlag x (trunc8 ((readV x s).toNat + (readV y s).toNat))
    ((readV x s).toNat + (readV y s).toNat > 255) s
  exact ⟨decode_8xyn x y 0x4, t, ht, fun hne => by rw [hx hne, trunc8_toNat], hflag, hrest⟩

/-- Settles O39: 8XY5 and 8XY7 are the same subtraction with the operands exchanged. -/
theorem subtractWritesDifferenceAndNotBorrow : Obligations.SubtractWritesDifferenceAndNotBorrow := by
  unfold Obligations.SubtractWritesDifferenceAndNotBorrow
  exact fun x y s => ⟨⟨decode_8xyn x y 0x5, complete_sub x (readV x s) (readV y s) s⟩,
    ⟨decode_8xyn x y 0x7, complete_sub x (readV y s) (readV x s) s⟩⟩

end

namespace Sys2Proof

/-! ### The word of the index load (R95) -/

theorem decode_Annn (nnn : Addr12) : decode (BitVec.ofNat 16 (0xA000 + nnn.toNat)) = .instr (.ldI nnn) := by
  obtain ⟨hfam, hnnn⟩ := fieldsOf_nnn (opcodeNNN_toNat (f := 0xA) (by decide) nnn.isLt)
  rw [ofNat_nnn 0xA]
  simp only [decode, selectInstr, hfam, hnnn]

end Sys2Proof

namespace Sys2Proof.Machine

/-! ### Completing with another I (R23, R200) -/

theorem onlyIndexChanged_setI (w : Word) (s : State) : OnlyIndexChanged s { s with i := w, outcome := none } :=
  ⟨fun _ _ => rfl, rfl, rfl, rfl, rfl, rfl, ⟨rfl, rfl, rfl⟩, fun _ => rfl, rfl, rfl⟩

/-- An instruction that writes I: it receives the value modulo 2^16, and nothing else changes. -/
theorem complete_writeI (n : Nat) (s : State) :
    ∃ t : State, complete (writeI n s) = .next t ∧ t.i.toNat = n % 65536 ∧ OnlyIndexChanged s t :=
  ⟨_, rfl, BitVec.toNat_ofNat n 16, onlyIndexChanged_setI (trunc16 n) s⟩

end Sys2Proof.Machine

section
open Sys2Proof Sys2Proof.Machine

/-- Settles O42: ANNN writes I, and twelve bits are kept whole by the reduction modulo 2^16. -/
theorem setIndexLoadsAddress : Obligations.SetIndexLoadsAddress := by
  unfold Obligations.SetIndexLoadsAddress
  intro nnn s
  have hn : nnn.toNat < 2 ^ 12 := nnn.isLt
  obtain ⟨t, ht, hi, hrest⟩ := complete_writeI nnn.toNat s
  exact ⟨decode_Annn nnn, t, ht, hi.trans (Nat.mod_eq_of_lt (by omega)), hrest⟩

end

namespace Sys2Proof

/-! ### The word of 00E0 (R95) -/

theorem decode_00E0 : decode 0x00E0 = .instr .cls := by decide

end Sys2Proof

namespace Sys2Proof.Machine

/-! ### Completing with another screen (R28, R29, R220) -/

/-- No pixel is set in a framebuffer whose rows are all zero, nor off the screen. -/
@[simp] theorem pixelAt_replicate_zero (x y : Nat) : pixelAt (Vector.replicate 32 0) x y = false := by
  by_cases hy : y < 32
  · rw [pixelAt_of_lt _ _ hy, Vector.getElem_replicate]
    exact BitVec.getLsbD_zero
  · exact dif_neg hy

/-- An instruction that writes the framebuffer and RENDER completes with nothing else changed. -/
theorem complete_setScreen (fb : Framebuffer) (b : Bool) (s : State) :
    ∃ t : State, complete (setScreen fb b s) = .next t ∧ t.fb = fb ∧ t.render = b ∧ RegsUnchangedExcept [] s t ∧
      SpecialsUnchanged s t ∧ t.pc = s.pc ∧ t.keys = s.keys ∧ MemUnchanged s t ∧ t.draws = s.draws ∧
      t.outcome = none :=
  ⟨_, rfl, rfl, rfl, fun _ _ => rfl, ⟨rfl, rfl, rfl, rfl, rfl⟩, rfl, rfl, fun _ => rfl, rfl, rfl⟩

theorem exec_cls (s : State) : exec .cls s = complete (setScreen (Vector.replicate 32 0) true s) := rfl

end Sys2Proof.Machine

section
open Sys2Proof Sys2Proof.Machine

/-- Settles O49: 00E0 completes with the all-zero framebuffer and RENDER set, whatever the screen was before. -/
theorem clearScreenClearsEveryPixel : Obligations.ClearScreenClearsEveryPixel := by
  unfold Obligations.ClearScreenClearsEveryPixel
  intro s
  obtain ⟨t, ht, hfb, hrest⟩ := complete_setScreen (Vector.replicate 32 0) true s
  have hclear : ∀ x y : Nat, pixelAt t.fb x y = false := fun x y => by rw [hfb, pixelAt_replicate_zero]
  exact ⟨decode_00E0, t, (exec_cls s).trans ht, hclear, hrest⟩

end

namespace Sys2Proof

/-! ### The words of family F (R95) -/

/-- The second level of family F (R94): only X and NN matter, so any word's fields will do with these two put in, and at
a given NN the right side computes to the instruction. -/
theorem decode_Fxnn (x : Reg) (nn : Byte) :
    decode (BitVec.ofNat 16 (0xF000 + nn.toNat + 256 * x.val)) = decodeMisc { fieldsOf 0xF000 with x := x, nn := nn } := by
  have hop : 0xF000 + nn.toNat + 256 * x.val = 0xF * 4096 + 256 * x.val + nn.toNat := by omega
  obtain ⟨hfam, hx, hnn⟩ := fieldsOf_xnn (opcodeXNN_toNat (f := 0xF) (by decide) nn.isLt x)
  rw [hop, ofNat_xnn]
  simp only [decode, selectInstr, decodeMisc, hfam, hx, hnn]

end Sys2Proof

namespace Sys2Proof.Machine

/-! ### The lowest pressed key (R242) -/

@[simp] theorem keyPressed_val (s : State) (k : Fin 16) : keyPressed s k.val = s.keys[k.val] := dif_pos k.isLt

theorem firstPressedKey_eq_some {s : State} {k : Fin 16} (hk : s.keys[k.val] = true)
    (hlow : ∀ j : Fin 16, j < k → s.keys[j.val] = false) : firstPressedKey s = some k.val := by
  refine List.find?_range_eq_some.mpr ⟨(keyPressed_val s k).trans hk, List.mem_range.mpr k.isLt, fun j hj => ?_⟩
  have hfree : keyPressed s j = false :=
    (keyPressed_val s ⟨j, hj.trans k.isLt⟩).trans (hlow ⟨j, hj.trans k.isLt⟩ hj)
  rw [hfree, Bool.not_false]

/-- With a key pressed FX0A writes VX: the number of the lowest one. -/
theorem exec_ldVxK_of_lowest_key (x : Reg) {s : State} {k : Fin 16} (hk : s.keys[k.val] = true)
    (hlow : ∀ j : Fin 16, j < k → s.keys[j.val] = false) :
    exec (.ldVxK x) s = complete (writeV x (trunc8 k.val) s) := by
  simp only [exec, execLdVxK, firstPressedKey_eq_some hk hlow]

/-! ### Completing with another timer (R26, R27, R244, R245) -/

theorem complete_setDt (b : Byte) (s : State) :
    ∃ t : State, complete { s with dt := b } = .next t ∧ t.dt = b ∧ t.pc = s.pc ∧ t.i = s.i ∧
      RegsUnchangedExcept [] s t ∧ RestUnchanged s { t with dt := s.dt } :=
  ⟨_, rfl, rfl, rfl, rfl, fun _ _ => rfl, rfl, rfl, rfl, rfl, ⟨rfl, rfl, rfl⟩, fun _ => rfl, rfl, rfl⟩

theorem complete_setSt (b : Byte) (s : State) :
    ∃ t : State, complete { s with st := b } = .next t ∧ t.st = b ∧ t.pc = s.pc ∧ t.i = s.i ∧
      RegsUnchangedExcept [] s t ∧ RestUnchanged s { t with st := s.st } :=
  ⟨_, rfl, rfl, rfl, rfl, fun _ _ => rfl, rfl, rfl, rfl, rfl, ⟨rfl, rfl, rfl⟩, fun _ => rfl, rfl, rfl⟩

end Sys2Proof.Machine

section
open Sys2Proof Sys2Proof.Machine

/-- Settles O54: with a key pressed FX0A writes VX, and a key number is kept whole by the reduction to a byte; with none
it moves PC alone. -/
theorem keyWaitTakesLowestKeyOrRepeats : Obligations.KeyWaitTakesLowestKeyOrRepeats := by
  unfold Obligations.KeyWaitTakesLowestKeyOrRepeats
  refine fun x s => ⟨decode_Fxnn x 0x0A, fun k hk hlow => ?_, fun hnone => ?_⟩
  · obtain ⟨t, ht, hx, hrest⟩ := complete_writeV x (trunc8 k.val) s
    have hnum : (trunc8 k.val).toNat = k.val := (trunc8_toNat k.val).trans (Nat.mod_eq_of_lt (by omega))
    exact ⟨t, (exec_ldVxK_of_lowest_key x hk hlow).trans ht, by rw [hx, hnum], hrest⟩
  · exact ⟨_, exec_ldVxK_of_no_key x hnone, rfl, onlyPcChanged_setPc (s.pc - 2) s⟩

/-- Settles O56: FX07 writes VX, FX15 and FX18 write one timer each. -/
theorem timerInstructions : Obligations.TimerInstructions := by
  unfold Obligations.TimerInstructions
  exact fun x s => ⟨⟨decode_Fxnn x 0x07, complete_writeV x s.dt s⟩, ⟨decode_Fxnn x 0x15, complete_setDt (readV x s) s⟩,
    ⟨decode_Fxnn x 0x18, complete_setSt (readV x s) s⟩⟩

end

namespace Sys2Proof.Machine

/-! ### Counting down (R271) and the sound flag (R272) -/

@[simp] theorem countDown_toNat (t : Byte) : (countDown t).toNat = t.toNat - 1 := by
  by_cases h : t = 0
  · simp [countDown, h]
  · have hpos : t.toNat ≠ 0 := fun h0 => h (BitVec.eq_of_toNat_eq h0)
    have ht : t.toNat < 2 ^ 8 := t.isLt
    have hone : (1 : Byte).toNat = 1 := rfl
    rw [countDown, if_neg h, BitVec.toNat_sub, hone]
    omega

theorem countDown_iterate_toNat (n : Nat) (t : Byte) : (countDown^[n] t).toNat = t.toNat - n := by
  induction n generalizing t with
  | zero => rfl
  | succ n ih => rw [Function.iterate_succ_apply, ih, countDown_toNat, Nat.sub_sub, Nat.add_comm 1 n]

theorem perform_tick (s : State) : perform .tick s = .next (tickTimers s, .none) := rfl

theorem performAll_tick_cons (ops : List HostOp) (s : State) :
    performAll (.tick :: ops) s = performAll ops (tickTimers s) := rfl

/-- The timers count down apart from each other, and a run of ticks changes nothing else. -/
theorem performAll_replicate_tick (n : Nat) (s : State) :
    performAll (List.replicate n .tick) s = .next { s with dt := countDown^[n] s.dt, st := countDown^[n] s.st } := by
  induction n generalizing s with
  | zero => rfl
  | succ n ih => rw [List.replicate_succ, performAll_tick_cons, ih]; rfl

theorem perform_sound (s : State) : perform .sound s = .next (s, .flag (soundActive s)) := rfl

theorem soundActive_eq_decide (s : State) : soundActive s = decide (s.st.toNat ≠ 0) := by
  have hzero : s.st ≠ 0 ↔ s.st.toNat ≠ 0 := (BitVec.toNat_inj (y := (0 : Byte))).not.symm
  rw [← decide_eq_decide.mpr hzero, decide_not]
  rfl

end Sys2Proof.Machine

section
open Sys2Proof Sys2Proof.Machine

/-- Settles O57: a tick counts each timer down by itself, and a run of n ticks counts it down n times. -/
theorem tickCountsTimersDown : Obligations.TickCountsTimersDown := by
  unfold Obligations.TickCountsTimersDown
  refine ⟨fun s => ⟨_, perform_tick s, countDown_toNat s.dt, countDown_toNat s.st, rfl⟩, fun n s => ?_, fun s => ?_⟩
  · exact ⟨_, performAll_replicate_tick n s, countDown_iterate_toNat n s.dt, countDown_iterate_toNat n s.st⟩
  · exact (perform_sound s).trans (by rw [soundActive_eq_decide])

end

namespace Sys2Proof

/-! ### The words of the families left (R95), and decoding an encoded instruction -/

theorem decode_2nnn (nnn : Addr12) : decode (BitVec.ofNat 16 (0x2000 + nnn.toNat)) = .instr (.call nnn) := by
  obtain ⟨hfam, hnnn⟩ := fieldsOf_nnn (opcodeNNN_toNat (f := 0x2) (by decide) nnn.isLt)
  rw [ofNat_nnn 0x2]
  simp only [decode, selectInstr, hfam, hnnn]

theorem decode_Cxnn (x : Reg) (nn : Byte) :
    decode (BitVec.ofNat 16 (0xC000 + 256 * x.val + nn.toNat)) = .instr (.rnd x nn) := by
  obtain ⟨hfam, hx, hnn⟩ := fieldsOf_xnn (opcodeXNN_toNat (f := 0xC) (by decide) nn.isLt x)
  rw [ofNat_xnn 0xC]
  simp only [decode, selectInstr, hfam, hx, hnn]

theorem decode_Dxyn (x y n : Fin 16) :
    decode (BitVec.ofNat 16 (0xD000 + 256 * x.val + 16 * y.val + n.val)) = .instr (.drw x y n) := by
  obtain ⟨hfam, hx, hy, hn⟩ := fieldsOf_xyn (opcodeXYN_toNat (f := 0xD) (by decide) x y n)
  rw [ofNat_xyn 0xD]
  simp only [decode, selectInstr, hfam, hx, hy, hn]

/-- The second level of family E (R94), as `decode_Fxnn` for family F. -/
theorem decode_Exnn (x : Reg) (nn : Byte) :
    decode (BitVec.ofNat 16 (0xE000 + nn.toNat + 256 * x.val)) = decodeKey { fieldsOf 0xE000 with x := x, nn := nn } := by
  have hop : 0xE000 + nn.toNat + 256 * x.val = 0xE * 4096 + 256 * x.val + nn.toNat := by omega
  obtain ⟨hfam, hx, hnn⟩ := fieldsOf_xnn (opcodeXNN_toNat (f := 0xE) (by decide) nn.isLt x)
  rw [hop, ofNat_xnn]
  simp only [decode, selectInstr, decodeKey, hfam, hx, hnn]

/-- `opcodeXYN` with the low nibble beside the family, as `decode_8xyn` has it. -/
theorem opcodeXYN_eq (f : Nat) (x y : Reg) (n : Nat) :
    opcodeXYN f x y n = BitVec.ofNat 16 (f * 4096 + n + 256 * x.val + 16 * y.val) :=
  congrArg (BitVec.ofNat 16) (by omega)

/-- `opcodeXNN` with the low byte beside the family, as `decode_Exnn` and `decode_Fxnn` have it. -/
theorem opcodeXNN_eq (f : Nat) (x : Reg) (nn : Nat) :
    opcodeXNN f x nn = BitVec.ofNat 16 (f * 4096 + nn + 256 * x.val) :=
  congrArg (BitVec.ofNat 16) (by omega)

theorem decode_opcode8 (x y n : Fin 16) :
    decode (opcodeXYN 0x8 x y n) = decodeAlu { fieldsOf 0x8000 with x := x, y := y, n := n } :=
  (congrArg decode (opcodeXYN_eq 0x8 x y n)).trans (decode_8xyn x y n)

theorem decode_opcodeE (x : Reg) (nn : Byte) :
    decode (opcodeXNN 0xE x nn.toNat) = decodeKey { fieldsOf 0xE000 with x := x, nn := nn } :=
  (congrArg decode (opcodeXNN_eq 0xE x nn.toNat)).trans (decode_Exnn x nn)

theorem decode_opcodeF (x : Reg) (nn : Byte) :
    decode (opcodeXNN 0xF x nn.toNat) = decodeMisc { fieldsOf 0xF000 with x := x, nn := nn } :=
  (congrArg decode (opcodeXNN_eq 0xF x nn.toNat)).trans (decode_Fxnn x nn)

theorem decode_opcodeXNN {f : Nat} {x : Reg} {nn : Byte} {d : Decoded}
    (h : decode (BitVec.ofNat 16 (f * 4096 + 256 * x.val + nn.toNat)) = d) : decode (opcodeXNN f x nn.toNat) = d :=
  ofNat_xnn f x nn ▸ h

theorem decode_opcodeXYN {f : Nat} {x y n : Fin 16} {d : Decoded}
    (h : decode (BitVec.ofNat 16 (f * 4096 + 256 * x.val + 16 * y.val + n.val)) = d) : decode (opcodeXYN f x y n) = d :=
  ofNat_xyn f x y n ▸ h

/-- Decoding undoes encoding: each encoding is a word of its row, and the row's words are known. -/
theorem decode_encode (i : Instr) : decode (encode i) = .instr i := by
  cases i with
  | cls => exact decode_00E0
  | ret => decide
  | jp nnn => exact decode_1nnn nnn
  | call nnn => exact decode_2nnn nnn
  | seByte x nn => exact decode_opcodeXNN (decode_3xnn x nn)
  | sneByte x nn => exact decode_opcodeXNN (decode_4xnn x nn)
  | seReg x y => exact decode_opcodeXYN (f := 0x5) (n := 0) (decode_5xyn x y 0)
  | ldByte x nn => exact decode_opcodeXNN (decode_6xnn x nn)
  | addByte x nn => exact decode_opcodeXNN (decode_7xnn x nn)
  | ldReg x y => exact decode_opcode8 x y 0x0
  | orReg x y => exact decode_opcode8 x y 0x1
  | andReg x y => exact decode_opcode8 x y 0x2
  | xorReg x y => exact decode_opcode8 x y 0x3
  | addReg x y => exact decode_opcode8 x y 0x4
  | subReg x y => exact decode_opcode8 x y 0x5
  | shrReg x y => exact decode_opcode8 x y 0x6
  | subnReg x y => exact decode_opcode8 x y 0x7
  | shlReg x y => exact decode_opcode8 x y 0xE
  | sneReg x y => exact decode_opcodeXYN (f := 0x9) (n := 0) (decode_9xyn x y 0)
  | ldI nnn => exact decode_Annn nnn
  | jpV0 nnn => exact decode_Bnnn nnn
  | rnd x nn => exact decode_opcodeXNN (decode_Cxnn x nn)
  | drw x y n => exact decode_opcodeXYN (decode_Dxyn x y n)
  | skp x => exact decode_opcodeE x 0x9E
  | sknp x => exact decode_opcodeE x 0xA1
  | ldVxDt x => exact decode_opcodeF x 0x07
  | ldVxK x => exact decode_opcodeF x 0x0A
  | ldDtVx x => exact decode_opcodeF x 0x15
  | ldStVx x => exact decode_opcodeF x 0x18
  | addI x => exact decode_opcodeF x 0x1E
  | ldF x => exact decode_opcodeF x 0x29
  | ldB x => exact decode_opcodeF x 0x33
  | storeRegs x => exact decode_opcodeF x 0x55
  | loadRegs x => exact decode_opcodeF x 0x65

/-- The two bytes of a word are decoded as the word, whatever follows them (R66, R90). -/
theorem decodeBytes_bytes (op : Word) (rest : List Byte) :
    decodeBytes (highByte op :: lowByte op :: rest) = decode op := congrArg decode (opcodeOfBytes_bytes op)

/-! ### Encoding what was decoded (R97) -/

theorem opcodeXYN_fieldsOf {op : Word} {f : Nat} (hf : (fieldsOf op).family.val = f) :
    opcodeXYN f (fieldsOf op).x (fieldsOf op).y (fieldsOf op).n = op := by
  have hop : op.toNat < 2 ^ 16 := op.isLt
  rw [family_val] at hf
  apply BitVec.eq_of_toNat_eq
  rw [opcodeXYN_toNat (by omega), x_val, y_val, n_val]
  omega

theorem opcodeXNN_fieldsOf {op : Word} {f : Nat} (hf : (fieldsOf op).family.val = f) :
    opcodeXNN f (fieldsOf op).x (fieldsOf op).nn.toNat = op := by
  have hop : op.toNat < 2 ^ 16 := op.isLt
  rw [family_val] at hf
  apply BitVec.eq_of_toNat_eq
  rw [opcodeXNN_toNat (by omega) (fieldsOf op).nn.isLt, x_val, nn_toNat]
  omega

theorem opcodeNNN_fieldsOf {op : Word} {f : Nat} (hf : (fieldsOf op).family.val = f) :
    opcodeNNN f (fieldsOf op).nnn.toNat = op := by
  have hop : op.toNat < 2 ^ 16 := op.isLt
  rw [family_val] at hf
  apply BitVec.eq_of_toNat_eq
  rw [opcodeNNN_toNat (by omega) (fieldsOf op).nnn.isLt, nnn_toNat]
  omega

theorem encode_of_decodeZero {op : Word} {i : Instr} (h : decodeZero op = .instr i) : encode i = op := by
  unfold decodeZero at h
  split at h
  next he => cases h; exact he.symm
  next =>
    split at h
    next he => cases h; exact he.symm
    next => cases h

theorem encode_of_decodeAlu {op : Word} {i : Instr} (hf : (fieldsOf op).family.val = 0x8)
    (h : decodeAlu (fieldsOf op) = .instr i) : encode i = op := by
  have hop := opcodeXYN_fieldsOf hf
  unfold decodeAlu at h
  split at h
  all_goals cases h
  all_goals next hn => rw [hn] at hop; exact hop

theorem encode_of_decodeKey {op : Word} {i : Instr} (hf : (fieldsOf op).family.val = 0xE)
    (h : decodeKey (fieldsOf op) = .instr i) : encode i = op := by
  have hop := opcodeXNN_fieldsOf hf
  unfold decodeKey at h
  split at h
  all_goals cases h
  all_goals next hn => rw [hn] at hop; exact hop

theorem encode_of_decodeMisc {op : Word} {i : Instr} (hf : (fieldsOf op).family.val = 0xF)
    (h : decodeMisc (fieldsOf op) = .instr i) : encode i = op := by
  have hop := opcodeXNN_fieldsOf hf
  unfold decodeMisc at h
  split at h
  all_goals cases h
  all_goals next hn => rw [hn] at hop; exact hop


theorem encode_of_decode {op : Word} {i : Instr} (h : decode op = .instr i) : encode i = op := by
  unfold decode selectInstr at h
  split at h
  case h_1 => exact encode_of_decodeZero h
  case h_6 | h_10 =>
    next hf =>
    split at h <;> cases h
    next hn =>
    have hop := opcodeXYN_fieldsOf hf
    rw [hn] at hop
    exact hop
  case h_9 => next hf => exact encode_of_decodeAlu hf h
  case h_15 => next hf => exact encode_of_decodeKey hf h
  case h_16 =>
    have hf : (fieldsOf op).family.val = 0xF := by simp only [imp_false] at *; omega
    exact encode_of_decodeMisc hf h
  case h_2 | h_3 | h_11 | h_12 => next hf => cases h; exact opcodeNNN_fieldsOf hf
  case h_14 => next hf => cases h; exact opcodeXYN_fieldsOf hf
  all_goals next hf => cases h; exact opcodeXNN_fieldsOf hf

end Sys2Proof

section
open Sys2Proof

/-- Settles O1: the word of each instruction lies in its row of the map and carries its operands, and two bytes hold it
whole. -/
theorem decodeOfEncodeIsIdentity : Obligations.DecodeOfEncodeIsIdentity := by
  unfold Obligations.DecodeOfEncodeIsIdentity
  exact fun i => ⟨decode_encode i, fun rest => (decodeBytes_bytes (encode i) rest).trans (decode_encode i)⟩

/-- Settles O2: the fields an instruction was selected by fill the word. -/
theorem encodeOfDecodeIsIdentity : Obligations.EncodeOfDecodeIsIdentity := by
  unfold Obligations.EncodeOfDecodeIsIdentity
  exact fun _ _ => encode_of_decode

end

namespace Sys2Proof

/-! ### The illegal spaces (R96) -/

/-- The form every illegal branch of the decoder has: it answers its own space, and its conditions hold. -/
theorem illegal_eq_illegal {own why : IllegalOpcode} {p : Prop} (hp : p) :
    Decoded.illegal own = .illegal why ↔ why = own ∧ p :=
  ⟨fun h => ⟨(Decoded.illegal.inj h).symm, hp⟩, fun h => h.1 ▸ rfl⟩

theorem decodeZero_illegal {op : Word} {why : IllegalOpcode} :
    decodeZero op = .illegal why ↔ why = .unmappedZero ∧ op ≠ 0x00E0 ∧ op ≠ 0x00EE := by
  unfold decodeZero
  split
  next h => simp [h]
  next hcls =>
    split
    next h => simp [h]
    next hret => exact illegal_eq_illegal ⟨hcls, hret⟩

theorem decodeAlu_illegal {f : Fields} {why : IllegalOpcode} :
    decodeAlu f = .illegal why ↔ why = .unmappedAlu ∧ f.n.val ∈ [0x8, 0x9, 0xA, 0xB, 0xC, 0xD, 0xF] := by
  have hn := f.n.isLt
  unfold decodeAlu
  split
  case h_10 => exact illegal_eq_illegal (by simp only [imp_false, List.mem_cons, List.not_mem_nil, or_false] at *; omega)
  all_goals next h => simp [h]

theorem decodeKey_illegal {f : Fields} {why : IllegalOpcode} :
    decodeKey f = .illegal why ↔ why = .unmappedKey ∧ f.nn.toNat ∉ [0x9E, 0xA1] := by
  unfold decodeKey
  split
  case h_3 => exact illegal_eq_illegal (by simp only [imp_false, List.mem_cons, List.not_mem_nil, or_false] at *; omega)
  all_goals next h => simp [h]

theorem decodeMisc_illegal {f : Fields} {why : IllegalOpcode} :
    decodeMisc f = .illegal why ↔
      why = .unmappedMisc ∧ f.nn.toNat ∉ [0x07, 0x0A, 0x15, 0x18, 0x1E, 0x29, 0x33, 0x55, 0x65] := by
  unfold decodeMisc
  split
  case h_10 => exact illegal_eq_illegal (by simp only [imp_false, List.mem_cons, List.not_mem_nil, or_false] at *; omega)
  all_goals next h => simp [h]

/-- A word is illegal in one of the six spaces of R96, each in a family of its own. -/
theorem decode_illegal {op : Word} {why : IllegalOpcode} :
    decode op = .illegal why ↔
      (op.toNat / 4096 = 0x0 ∧ why = .unmappedZero ∧ op ≠ 0x00E0 ∧ op ≠ 0x00EE) ∨
      (op.toNat / 4096 = 0x5 ∧ why = .skipEqualNibble ∧ op.toNat % 16 ≠ 0) ∨
      (op.toNat / 4096 = 0x8 ∧ why = .unmappedAlu ∧ op.toNat % 16 ∈ [0x8, 0x9, 0xA, 0xB, 0xC, 0xD, 0xF]) ∨
      (op.toNat / 4096 = 0x9 ∧ why = .skipDiffersNibble ∧ op.toNat % 16 ≠ 0) ∨
      (op.toNat / 4096 = 0xE ∧ why = .unmappedKey ∧ op.toNat % 256 ∉ [0x9E, 0xA1]) ∨
      (op.toNat / 4096 = 0xF ∧ why = .unmappedMisc ∧
        op.toNat % 256 ∉ [0x07, 0x0A, 0x15, 0x18, 0x1E, 0x29, 0x33, 0x55, 0x65]) := by
  have hn : (fieldsOf op).n = 0 ↔ op.toNat % 16 = 0 := by rw [Fin.ext_iff, n_val]; rfl
  rw [← family_val, ← nn_toNat]
  unfold decode selectInstr
  split
  case h_1 h => simp [h, decodeZero_illegal]
  case h_6 | h_10 =>
    next h =>
    split
    next h0 => simp [h, hn.mp h0]
    next h0 => simpa [h] using illegal_eq_illegal (mt hn.mpr h0)
  case h_9 h => simp [h, decodeAlu_illegal, n_val]
  case h_15 h => simp [h, decodeKey_illegal]
  case h_16 =>
    have h : (fieldsOf op).family.val = 0xF := by simp only [imp_false] at *; omega
    simp [h, decodeMisc_illegal]
  all_goals next h => simp [h]

theorem bitsOf_15_12 (op : Word) : bitsOf op 15 12 = op.toNat / 4096 := by
  have hop : op.toNat < 2 ^ 16 := op.isLt
  simp only [bitsOf]; omega

theorem bitsOf_7_0 (op : Word) : bitsOf op 7 0 = op.toNat % 256 := by simp only [bitsOf]; omega

theorem bitsOf_3_0 (op : Word) : bitsOf op 3 0 = op.toNat % 16 := by simp only [bitsOf]; omega

/-! ### The opcode map and the decoder (R95, R96) -/

/-- Whether a word decoded to an instruction. -/
def Decoded.isInstr : Decoded → Bool
  | .instr _   => true
  | .illegal _ => false

theorem isInstr_iff (d : Decoded) : d.isInstr = true ↔ ∃ i, d = .instr i := by
  cases d <;> simp [Decoded.isInstr]

theorem isInstr_iff_ne_illegal (d : Decoded) : d.isInstr = true ↔ ∀ why, d ≠ .illegal why := by
  cases d <;> simp [Decoded.isInstr]

/-- Each row's own word is an instruction, and its mask tests the selectors of its family: family 0 the whole word,
families 5, 8 and 9 the low nibble, families E and F the low byte (R94). -/
theorem opcodeRows_test_selectors : ∀ r ∈ opcodeRows, (decode r.value).isInstr = true ∧
    (r.mask = 0xFFFF ∨
      r.mask = 0xF000 ∧ r.value.toNat / 4096 ∉ [0x0, 0x5, 0x8, 0x9, 0xE, 0xF] ∨
      r.mask = 0xF00F ∧ r.value.toNat / 4096 ∉ [0x0, 0xE, 0xF] ∨
      r.mask = 0xF0FF ∧ r.value.toNat / 4096 ∉ [0x0, 0x5, 0x8, 0x9]) := by decide

/-- A word that matches a row is no illegal word, for it has the selectors of the row's own word. -/
theorem decode_ne_illegal_of_matchesWord {r : OpcodeRow} {op : Word} (hr : r ∈ opcodeRows)
    (hm : r.matchesWord op = true) (why : IllegalOpcode) : decode op ≠ .illegal why := by
  obtain ⟨hvalue, hmask⟩ := opcodeRows_test_selectors r hr
  have hand : op &&& r.mask = r.value := beq_iff_eq.mp hm
  have hnum := congrArg BitVec.toNat hand
  intro hd
  refine (isInstr_iff_ne_illegal _).mp hvalue why ?_
  rw [decode_illegal] at hd ⊢
  obtain hmask | ⟨hmask, hsel⟩ | ⟨hmask, hsel⟩ | ⟨hmask, hsel⟩ := hmask
  · rwa [← hand, hmask, land_FFFF]
  · rw [hmask, land_F000_toNat] at hnum
    simp only [List.mem_cons, List.not_mem_nil, or_false, not_or] at hsel
    have hfam : op.toNat / 4096 = r.value.toNat / 4096 := by omega
    simp only [hfam, hsel, false_and, or_self] at hd
  · rw [hmask, land_F00F_toNat] at hnum
    simp only [List.mem_cons, List.not_mem_nil, or_false, not_or] at hsel
    have hfam : op.toNat / 4096 = r.value.toNat / 4096 := by omega
    have hn : op.toNat % 16 = r.value.toNat % 16 := by omega
    simpa only [hfam, hn, hsel, false_and, false_or, or_false] using hd
  · rw [hmask, land_F0FF_toNat] at hnum
    simp only [List.mem_cons, List.not_mem_nil, or_false, not_or] at hsel
    have hfam : op.toNat / 4096 = r.value.toNat / 4096 := by omega
    have hnn : op.toNat % 256 = r.value.toNat % 256 := by omega
    simpa only [hfam, hnn, hsel, false_and, false_or, or_false] using hd

/-- The row of each instruction, all 34 in one statement. -/
theorem rowMatch : ∀ i : Instr, Laws.RowMatch.Statement i
  | .cls => Laws.RowMatch.cls
  | .ret => Laws.RowMatch.ret
  | .jp nnn => Laws.RowMatch.jp nnn
  | .call nnn => Laws.RowMatch.call nnn
  | .seByte x nn => Laws.RowMatch.seByte x nn
  | .sneByte x nn => Laws.RowMatch.sneByte x nn
  | .seReg x y => Laws.RowMatch.seReg x y
  | .ldByte x nn => Laws.RowMatch.ldByte x nn
  | .addByte x nn => Laws.RowMatch.addByte x nn
  | .ldReg x y => Laws.RowMatch.ldReg x y
  | .orReg x y => Laws.RowMatch.orReg x y
  | .andReg x y => Laws.RowMatch.andReg x y
  | .xorReg x y => Laws.RowMatch.xorReg x y
  | .addReg x y => Laws.RowMatch.addReg x y
  | .subReg x y => Laws.RowMatch.subReg x y
  | .shrReg x y => Laws.RowMatch.shrReg x y
  | .subnReg x y => Laws.RowMatch.subnReg x y
  | .shlReg x y => Laws.RowMatch.shlReg x y
  | .sneReg x y => Laws.RowMatch.sneReg x y
  | .ldI nnn => Laws.RowMatch.ldI nnn
  | .jpV0 nnn => Laws.RowMatch.jpV0 nnn
  | .rnd x nn => Laws.RowMatch.rnd x nn
  | .drw x y n => Laws.RowMatch.drw x y n
  | .skp x => Laws.RowMatch.skp x
  | .sknp x => Laws.RowMatch.sknp x
  | .ldVxDt x => Laws.RowMatch.ldVxDt x
  | .ldVxK x => Laws.RowMatch.ldVxK x
  | .ldDtVx x => Laws.RowMatch.ldDtVx x
  | .ldStVx x => Laws.RowMatch.ldStVx x
  | .addI x => Laws.RowMatch.addI x
  | .ldF x => Laws.RowMatch.ldF x
  | .ldB x => Laws.RowMatch.ldB x
  | .storeRegs x => Laws.RowMatch.storeRegs x
  | .loadRegs x => Laws.RowMatch.loadRegs x

theorem wellFormedWord_encode (i : Instr) : wellFormedWord (encode i) = true := by
  obtain ⟨r, hr, -, hm⟩ := rowMatch i
  exact List.any_eq_true.mpr ⟨r, hr, hm⟩

/-- A word is an instruction exactly when it matches a row of the map (R95, R96). -/
theorem decode_instr_iff_wellFormedWord (op : Word) : (∃ i, decode op = .instr i) ↔ wellFormedWord op = true := by
  constructor
  · rintro ⟨i, hi⟩
    exact encode_of_decode hi ▸ wellFormedWord_encode i
  · intro h
    obtain ⟨r, hr, hm⟩ := List.any_eq_true.mp h
    rw [← isInstr_iff, isInstr_iff_ne_illegal]
    exact decode_ne_illegal_of_matchesWord hr hm

/-- Words that match two rows agree with both values where both masks test a bit. -/
theorem not_disjointFrom_of_matchesWord {op : Word} {r q : OpcodeRow} (hr : r.matchesWord op = true)
    (hq : q.matchesWord op = true) : r.disjointFrom q = false := by
  have hr' : op &&& r.mask = r.value := beq_iff_eq.mp hr
  have hq' : op &&& q.mask = q.value := beq_iff_eq.mp hq
  have hcommon : r.value &&& q.mask = q.value &&& r.mask := by
    rw [← hr', ← hq', BitVec.and_assoc, BitVec.and_assoc, BitVec.and_comm r.mask]
  rw [OpcodeRow.disjointFrom, hcommon, bne_self_eq_false]

/-- Of the 34 rows any two are the same or disjoint. -/
theorem opcodeRows_disjoint : ∀ r ∈ opcodeRows, ∀ q ∈ opcodeRows, r = q ∨ r.disjointFrom q = true := by decide

end Sys2Proof

section
open Sys2Proof

/-- Settles O3: the row of each instruction and the rows' selectors give the equivalence, the lemmas on each family's
words the rest. -/
theorem decodeFollowsOpcodeMap : Obligations.DecodeFollowsOpcodeMap := by
  unfold Obligations.DecodeFollowsOpcodeMap
  refine ⟨decode_instr_iff_wellFormedWord, decode_00E0, decode_encode .ret, fun nnn => ?_, fun x nn => ?_,
    fun x y => ?_, decode_Dxyn, fun x => ?_⟩
  · exact ⟨decode_1nnn nnn, decode_2nnn nnn, decode_Annn nnn, decode_Bnnn nnn⟩
  · exact ⟨decode_3xnn x nn, decode_4xnn x nn, decode_6xnn x nn, decode_7xnn x nn, decode_Cxnn x nn⟩
  · exact ⟨decode_5xyn x y 0, decode_8xyn x y 0x0, decode_8xyn x y 0x1, decode_8xyn x y 0x2, decode_8xyn x y 0x3,
      decode_8xyn x y 0x4, decode_8xyn x y 0x5, decode_8xyn x y 0x6, decode_8xyn x y 0x7, decode_8xyn x y 0xE,
      decode_9xyn x y 0⟩
  · exact ⟨decode_Exnn x 0x9E, decode_Exnn x 0xA1, decode_Fxnn x 0x07, decode_Fxnn x 0x0A, decode_Fxnn x 0x15,
      decode_Fxnn x 0x18, decode_Fxnn x 0x1E, decode_Fxnn x 0x29, decode_Fxnn x 0x33, decode_Fxnn x 0x55,
      decode_Fxnn x 0x65⟩

/-- Settles O4: a word that matched two rows would agree with both where both masks test a bit, and no two rows allow
that. -/
theorem noWordMatchesTwoRows : Obligations.NoWordMatchesTwoRows := by
  unfold Obligations.NoWordMatchesTwoRows
  intro op r q hr hq hmr hmq
  refine (opcodeRows_disjoint r hr q hq).resolve_right ?_
  rw [not_disjointFrom_of_matchesWord hmr hmq]
  exact Bool.false_ne_true

/-- Settles O5: each clause picks its own space out of the six. -/
theorem illegalSpaceIsExact : Obligations.IllegalSpaceIsExact := by
  unfold Obligations.IllegalSpaceIsExact
  intro op
  simp only [bitsOf_15_12, bitsOf_7_0, bitsOf_3_0]
  refine ⟨?_, ?_, ?_, ?_, ?_, ?_, ?_⟩ <;> simp [decode_illegal]

/-- Settles O7: each word is decoded by evaluation. -/
theorem specWordsDecode : Obligations.SpecWordsDecode := by
  unfold Obligations.SpecWordsDecode
  decide

end

namespace Sys2Proof.Machine

/-! ### How an instruction, a word and a step end (R120, R125, R126, R129) -/

theorem exec_answers (i : Instr) (s : State) : ∃ t : State, exec i s = .next t := by
  obtain ⟨f, hf⟩ | ⟨u, hu⟩ := exec_raises_or_completes i s
  · exact ⟨takeFault f s, hf⟩
  · exact ⟨{ u with outcome := none }, hu⟩

/-- An instruction takes a fault of its own, which is not PC_OVERFLOW, with nothing else changed, or it completes. -/
theorem exec_outcome_cases {i : Instr} {s t : State} (h : exec i s = .next t) :
    (∃ f, f ≠ .pcOverflow ∧ t = { s with outcome := some f }) ∨ t.outcome = none := by
  obtain ⟨f, hf⟩ | ⟨u, hu⟩ := exec_raises_or_completes i s
  · have ht : { s with outcome := some f } = t := raise_eq_next.mp (hf.symm.trans h)
    refine .inl ⟨f, fun he => exec_outcome_ne_pcOverflow h ?_, ht.symm⟩
    rw [← ht, he]
  · exact .inr (by rw [← complete_eq_next.mp (hu.symm.trans h)])

theorem executeWord_of_instr {op : Word} {i : Instr} (h : decode op = .instr i) (s : State) :
    executeWord op s = exec i s := by simp only [executeWord, h]

theorem executeWord_of_illegal {op : Word} {why : IllegalOpcode} (h : decode op = .illegal why) (s : State) :
    executeWord op s = raise .unknownOpcode s := by simp only [executeWord, h]

theorem executeWord_answers (op : Word) (s : State) : ∃ t : State, executeWord op s = .next t := by
  cases h : decode op with
  | instr i => rw [executeWord_of_instr h]; exact exec_answers i s
  | illegal why => exact ⟨_, executeWord_of_illegal h s⟩

/-- At a PC that can be fetched from, a step is the word's execution and then the post-execute check. -/
theorem step_of_executeWord {s u : State} (hf : s.pc.toNat + 1 < 4096)
    (hu : executeWord (fetchWord s) (advancePc s) = .next u) : step s = .next (postCheck u) := by
  have hc : canFetch s = true := decide_eq_true hf
  simp only [step, if_pos hc, hu, afterExecute_next]

theorem step_of_fetch_fault {s : State} (h : 4096 ≤ s.pc.toNat + 1) :
    step s = .next { s with outcome := some .boundsFault } := by
  have hc : ¬ canFetch s = true := fun hc => absurd (of_decide_eq_true hc) (Nat.not_lt.mpr h)
  simp only [step, if_neg hc, raise_eq]

theorem step_answers (s : State) : ∃ t : State, step s = .next t := by
  by_cases h : 4096 ≤ s.pc.toNat + 1
  · exact ⟨_, step_of_fetch_fault h⟩
  · obtain ⟨u, hu⟩ := executeWord_answers (fetchWord s) (advancePc s)
    exact ⟨_, step_of_executeWord (Nat.not_le.mp h) hu⟩

/-! ### The PC the post-execute check sees and leaves (R121, R126) -/

/-- PC + 2 does not wrap at a PC that can be fetched from. -/
theorem advancePc_pc_toNat {s : State} (hf : s.pc.toNat + 1 < 4096) : (advancePc s).pc.toNat = s.pc.toNat + 2 := by
  have htwo : (2 : Word).toNat = 2 := rfl
  rw [advancePc_pc, BitVec.toNat_add, htwo]
  omega

/-- The check after a fault that left PC at A + 2. -/
theorem postCheck_of_fault {s : State} (hf : s.pc.toNat + 1 < 4096) (f : Fault) :
    postCheck { advancePc s with outcome := some f } =
      { s with pc := if s.pc.toNat + 2 = 4096 then 0x200 else s.pc + 2, outcome := some f } := by
  have hpc := advancePc_pc_toNat hf
  by_cases h : s.pc.toNat + 2 = 4096
  · rw [if_pos h]
    exact postCheck_of_le (s := takeFault f (advancePc s)) (show 4096 ≤ (advancePc s).pc.toNat by omega)
  · rw [if_neg h]
    exact postCheck_of_lt (s := takeFault f (advancePc s)) (show (advancePc s).pc.toNat < 4096 by omega)

/-- The check after an instruction that completed. -/
theorem postCheck_of_completed {u : State} (hu : u.outcome = none) :
    (u.pc.toNat < 4096 ∧ postCheck u = u) ∨
    (4096 ≤ u.pc.toNat ∧ postCheck u = { u with pc := 0x200, outcome := some .pcOverflow }) := by
  by_cases h : u.pc.toNat < 4096
  · exact .inl ⟨h, postCheck_of_lt h⟩
  · have hle : 4096 ≤ u.pc.toNat := Nat.not_lt.mp h
    exact .inr ⟨hle, by rw [postCheck_of_le hle, hu, Option.none_or]⟩

/-- How a step ends, by what it reports: the fetch faults and nothing changes; a word, known or not, takes a fault with
nothing changed but PC; or an instruction completes, and the post-execute check follows. -/
theorem step_outcome_cases {s t : State} (h : step s = .next t) :
    (4096 ≤ s.pc.toNat + 1 ∧ t = { s with outcome := some .boundsFault }) ∨
    (s.pc.toNat + 1 < 4096 ∧ ∃ f, f ≠ .pcOverflow ∧ t = { s with
      pc := if s.pc.toNat + 2 = 4096 then 0x200 else s.pc + 2
      outcome := some f }) ∨
    (s.pc.toNat + 1 < 4096 ∧ ∃ i u, decode (fetchWord s) = .instr i ∧ exec i (advancePc s) = .next u ∧
      u.outcome = none ∧ t = postCheck u) := by
  obtain hfetch | ⟨hf, u, hu, rfl⟩ := step_cases h
  · exact .inl hfetch
  · obtain ⟨-, rfl⟩ | ⟨i, hi, hexec⟩ := executeWord_cases hu
    · exact .inr (.inl ⟨hf, .unknownOpcode, by decide, postCheck_of_fault hf _⟩)
    · obtain ⟨f, hne, rfl⟩ | hnone := exec_outcome_cases hexec
      · exact .inr (.inl ⟨hf, f, hne, postCheck_of_fault hf f⟩)
      · exact .inr (.inr ⟨hf, i, u, hi, hexec, hnone, rfl⟩)

/-! ### The outcome before is never read (R129) -/

/-- The state with another last outcome (log entry 1). -/
def setOutcome (o : Option Fault) (s : State) : State := { s with outcome := o }

@[simp] theorem loadV_setOutcome (o : Option Fault) (s : State) (rs : List Reg) :
    loadV (setOutcome o s) rs = setOutcome o (loadV s rs) :=
  List.foldl_hom (setOutcome o) fun _ _ => rfl

/-- Every instruction overwrites the outcome, whether it completes or faults, and none reads it. -/
theorem exec_setOutcome (i : Instr) (o : Option Fault) (s : State) : exec i (setOutcome o s) = exec i s := by
  cases i with
  | loadRegs x => simp only [exec, execLoadRegs, loadV_setOutcome]; rfl
  | _ => rfl

theorem step_setOutcome (o : Option Fault) (s : State) : step (setOutcome o s) = step s := by
  have hword : executeWord (fetchWord s) (setOutcome o (advancePc s)) = executeWord (fetchWord s) (advancePc s) := by
    cases h : decode (fetchWord s) with
    | instr i => rw [executeWord_of_instr h, executeWord_of_instr h, exec_setOutcome]
    | illegal why => rw [executeWord_of_illegal h, executeWord_of_illegal h]; rfl
  exact congrArg (fun r => if canFetch s then afterExecute r else raise .boundsFault s) hword

end Sys2Proof.Machine

section
open Sys2Proof Sys2Proof.Machine

/-- Settles O11: an instruction faults or completes, an unknown word faults, and each of these is a next state. -/
theorem everyStepAnswersNextState : Obligations.EveryStepAnswersNextState := by
  unfold Obligations.EveryStepAnswersNextState
  exact ⟨step_answers, exec_answers⟩

/-- Settles O12: of the ways a step ends, the third reports OK or PC_OVERFLOW. -/
theorem faultChangesNothingButPc : Obligations.FaultChangesNothingButPc := by
  unfold Obligations.FaultChangesNothingButPc
  intro s t f h hout hne
  obtain ⟨hle, rfl⟩ | ⟨hlt, g, -, rfl⟩ | ⟨-, i, u, -, -, hu, rfl⟩ := step_outcome_cases h
  · cases hout
    exact ⟨rfl, (if_pos hle).symm⟩
  · cases hout
    exact ⟨rfl, (if_neg (Nat.not_le.mpr hlt)).symm⟩
  · obtain ⟨-, hp⟩ | ⟨-, hp⟩ := postCheck_of_completed hu
    · rw [hp, hu] at hout
      cases hout
    · rw [hp] at hout
      exact absurd (Option.some.inj hout).symm hne

/-- Settles O13: a step that reports OK or PC_OVERFLOW ended with an instruction that completed, and PC_OVERFLOW is what
the post-execute check makes of a PC outside memory. -/
theorem outcomeTellsWherePcIs : Obligations.OutcomeTellsWherePcIs := by
  unfold Obligations.OutcomeTellsWherePcIs
  intro s t h
  obtain ⟨-, rfl⟩ | ⟨-, f, hne, rfl⟩ | ⟨hlt, i, u, hi, hexec, hu, rfl⟩ := step_outcome_cases h
  · exact ⟨fun hn => (Option.some_ne_none _ hn).elim, fun ho => by cases ho⟩
  · exact ⟨fun hn => (Option.some_ne_none _ hn).elim, fun ho => absurd (Option.some.inj ho) hne⟩
  · refine ⟨fun _ => postCheck_pc_lt u, fun ho => ⟨hlt, i, u, hi, hexec, hu, ?_⟩⟩
    obtain ⟨-, hp⟩ | ⟨hle, hp⟩ := postCheck_of_completed hu
    · rw [hp, hu] at ho
      cases ho
    · exact ⟨hle, hp⟩

/-- Settles O14: no instruction reads the outcome, and so no step does. -/
theorem previousOutcomeIsNeverRead : Obligations.PreviousOutcomeIsNeverRead := by
  unfold Obligations.PreviousOutcomeIsNeverRead
  exact fun s o => ⟨step_setOutcome o s, fun i => exec_setOutcome i o s⟩

/-- Settles O8: the word at PC is decoded and executed, and the post-execute check written out. -/
theorem stepRunsDecodedInstruction : Obligations.StepRunsDecodedInstruction := by
  unfold Obligations.StepRunsDecodedInstruction
  intro s t i hf hd hexec
  have hcheck : postCheck t = if t.pc.toNat < 4096 then t
      else { t with pc := 0x200, outcome := if t.outcome = none then some .pcOverflow else t.outcome } := by
    by_cases h : t.pc.toNat < 4096
    · rw [if_pos h, postCheck_of_lt h]
    · rw [if_neg h, postCheck_of_le (Nat.not_lt.mp h)]
      cases t.outcome <;> rfl
  rw [← hcheck]
  exact step_of_executeWord hf ((executeWord_of_instr hd _).trans hexec)

/-- Settles O9: the fetch is checked before anything else. -/
theorem fetchOutsideMemoryIsBoundsFault : Obligations.FetchOutsideMemoryIsBoundsFault := by
  unfold Obligations.FetchOutsideMemoryIsBoundsFault
  exact fun _ => step_of_fetch_fault

/-- Settles O10: a word that matches no row is illegal, which is a fault that leaves PC at A + 2 before the check. -/
theorem unknownOpcodeChangesOnlyPc : Obligations.UnknownOpcodeChangesOnlyPc := by
  unfold Obligations.UnknownOpcodeChangesOnlyPc
  intro s hf hw
  change wellFormedWord (fetchWord s) = false at hw
  cases hd : decode (fetchWord s) with
  | instr i => exact absurd ((decode_instr_iff_wellFormedWord _).mp ⟨i, hd⟩) (by simp [hw])
  | illegal why =>
    rw [step_of_executeWord hf (executeWord_of_illegal hd (advancePc s))]
    exact congrArg Host.Outcome.next (postCheck_of_fault hf .unknownOpcode)

end

namespace Sys2Proof.Machine

/-! ### Instructions that neither read nor write memory, the stack or a timer (R25, R26, R27, R60) -/

/-- Another memory, stack with its pointer, DT or ST, each where it is given. -/
structure Patch where
  mem   : Option Memory := none
  stack : Option (Fin 17 × Vector Word 16) := none
  dt    : Option Byte := none
  st    : Option Byte := none

/-- The state with the given parts in place of its own. -/
def Patch.apply (p : Patch) (s : State) : State :=
  { s with
    mem   := p.mem.getD s.mem
    sp    := (p.stack.getD (s.sp, s.stack)).1
    stack := (p.stack.getD (s.sp, s.stack)).2
    dt    := p.dt.getD s.dt
    st    := p.st.getD s.st }

/-- The patch keeps to the parts that an instruction neither reads nor writes: the spec's lists of who touches memory
(20_memory.md section 1), the stack (R25), DT (R26) and ST (R27). -/
def Patch.untouchedBy (p : Patch) : Instr → Prop
  | .ret | .call _ => p.stack = none
  | .drw _ _ _ | .ldB _ | .storeRegs _ | .loadRegs _ => p.mem = none
  | .ldVxDt _ | .ldDtVx _ => p.dt = none
  | .ldStVx _ => p.st = none
  | _ => True

@[simp] theorem firstPressedKey_patch (p : Patch) (s : State) : firstPressedKey (p.apply s) = firstPressedKey s := rfl

/-- A block load reads memory and writes registers, so it commutes with a patch of anything but memory. -/
theorem loadV_patch {p : Patch} (hp : p.mem = none) (s : State) (rs : List Reg) :
    loadV (p.apply s) rs = p.apply (loadV s rs) := by
  have hmem : (p.apply s).mem = s.mem := by simp only [Patch.apply, hp, Option.getD_none]
  unfold loadV
  rw [hmem]
  exact List.foldl_hom p.apply fun _ _ => rfl

/-- Other values in, the same values out and nothing else different, in the parts an instruction does not touch. -/
theorem exec_patch {p : Patch} {i : Instr} (hp : p.untouchedBy i) (s : State) :
    exec i (p.apply s) = mapNext p.apply (exec i s) := by
  obtain ⟨mem, stack, dt, st⟩ := p
  cases i with
  | ret => cases hp; simp only [exec, execRet, mapNext_ite]; rfl
  | call nnn => cases hp; simp only [exec, execCall, mapNext_dite]; rfl
  | drw x y n => cases hp; simp only [exec, execDrw, mapNext_ite]; rfl
  | ldB x => cases hp; simp only [exec, execLdB, mapNext_ite]; rfl
  | storeRegs x => cases hp; simp only [exec, execStoreRegs, mapNext_ite]; rfl
  | loadRegs x => simp only [exec, execLoadRegs, loadV_patch hp, mapNext_ite]; rfl
  | ldVxDt x => cases hp; rfl
  | ldDtVx x => cases hp; rfl
  | ldStVx x => cases hp; rfl
  | skp x => simp only [exec, execSkp, mapNext_ite]; rfl
  | sknp x => simp only [exec, execSknp, mapNext_ite]; rfl
  | ldVxK x => simp only [exec, execLdVxK, firstPressedKey_patch]; split <;> rfl
  | _ => rfl

theorem exec_patch_next {p : Patch} {i : Instr} {s t : State} (hp : p.untouchedBy i) (h : exec i s = .next t) :
    exec i (p.apply s) = .next (p.apply t) :=
  (exec_patch hp s).trans (congrArg (mapNext p.apply) h)

/-- What an instruction does not touch it leaves as it was: it would hand on whatever it is given. -/
theorem eq_patch_of_exec {p : Patch} {i : Instr} {s t : State} (hp : p.untouchedBy i) (hs : p.apply s = s)
    (h : exec i s = .next t) : t = p.apply t := by
  refine eq_of_mapNext_fixes ?_ h
  rw [← exec_patch hp, hs]

theorem untouchedBy_mem {i : Instr} (hi : ∀ x : Reg, i ≠ .ldB x ∧ i ≠ .storeRegs x ∧ i ≠ .loadRegs x)
    (hd : ∀ (x y : Reg) (n : Fin 16), i ≠ .drw x y n) (m : Memory) : Patch.untouchedBy { mem := some m } i := by
  cases i <;> simp_all [Patch.untouchedBy]

theorem untouchedBy_stack {i : Instr} (hr : i ≠ .ret) (hc : ∀ a : Addr12, i ≠ .call a) (n : Fin 17)
    (st : Vector Word 16) : Patch.untouchedBy { stack := some (n, st) } i := by
  cases i <;> simp_all [Patch.untouchedBy]

theorem untouchedBy_dt {i : Instr} (hi : ∀ x : Reg, i ≠ .ldVxDt x ∧ i ≠ .ldDtVx x) (b : Byte) :
    Patch.untouchedBy { dt := some b } i := by
  cases i <;> simp_all [Patch.untouchedBy]

theorem untouchedBy_st {i : Instr} (hi : ∀ x : Reg, i ≠ .ldStVx x) (b : Byte) :
    Patch.untouchedBy { st := some b } i := by
  cases i <;> simp_all [Patch.untouchedBy]

/-- Only FX33 and FX55 write memory: DXYN and FX65 read it, the others do not touch it (R60). -/
theorem exec_mem {i : Instr} {s t : State} (hi : ∀ x : Reg, i ≠ .ldB x ∧ i ≠ .storeRegs x) (h : exec i s = .next t) :
    t.mem = s.mem := by
  cases i with
  | drw x y n => simp only [exec, execDrw] at h; split at h <;> cases h <;> rfl
  | loadRegs x => simp only [exec, execLoadRegs] at h; split at h <;> cases h <;> simp
  | ldB x => exact absurd rfl (hi x).1
  | storeRegs x => exact absurd rfl (hi x).2
  | _ => rw [eq_patch_of_exec (untouchedBy_mem (by simp) (by simp) s.mem) rfl h]; rfl

/-- Only 2NNN and 00EE write SP and STACK (R25). -/
theorem exec_stack {i : Instr} {s t : State} (hr : i ≠ .ret) (hc : ∀ a : Addr12, i ≠ .call a) (h : exec i s = .next t) :
    t.sp = s.sp ∧ t.stack = s.stack := by
  rw [eq_patch_of_exec (untouchedBy_stack hr hc s.sp s.stack) rfl h]
  exact ⟨rfl, rfl⟩

/-- Only FX15 writes DT: FX07 reads it, the others do not touch it (R26). -/
theorem exec_dt {i : Instr} {s t : State} (hi : ∀ x : Reg, i ≠ .ldDtVx x) (h : exec i s = .next t) : t.dt = s.dt := by
  by_cases hx : ∃ x, i = .ldVxDt x
  · obtain ⟨x, rfl⟩ := hx
    cases h
    rfl
  · rw [eq_patch_of_exec (untouchedBy_dt (fun x => ⟨fun he => hx ⟨x, he⟩, hi x⟩) s.dt) rfl h]
    rfl

/-- Only FX18 writes ST (R27). -/
theorem exec_st {i : Instr} {s t : State} (hi : ∀ x : Reg, i ≠ .ldStVx x) (h : exec i s = .next t) : t.st = s.st := by
  rw [eq_patch_of_exec (untouchedBy_st hi s.st) rfl h]
  rfl

/-! ### The V registers an instruction may write (R22, R93) -/

/-- The destination of an instruction, and VF where it is written as a flag. -/
def writtenRegs : Instr → List Reg
  | .ldByte x _ | .addByte x _ | .ldReg x _ | .orReg x _ | .andReg x _ | .xorReg x _ | .rnd x _ | .ldVxDt x
  | .ldVxK x => [x]
  | .addReg x _ | .subReg x _ | .shrReg x _ | .subnReg x _ | .shlReg x _ => [x, 15]
  | .drw _ _ _ => [15]
  | .loadRegs x => blockRegs x
  | _ => []

/-- Every other V register keeps its value. -/
theorem exec_regs {i : Instr} {s t : State} (h : exec i s = .next t) : RegsUnchangedExcept (writtenRegs i) s t := by
  intro r hr
  cases i with
  | ret => simp only [exec, execRet] at h; split at h <;> cases h <;> rfl
  | call nnn => simp only [exec, execCall] at h; split at h <;> cases h <;> rfl
  | skp x => simp only [exec, execSkp] at h; split at h <;> cases h <;> rfl
  | sknp x => simp only [exec, execSknp] at h; split at h <;> cases h <;> rfl
  | ldB x => simp only [exec, execLdB] at h; split at h <;> cases h <;> rfl
  | storeRegs x => simp only [exec, execStoreRegs] at h; split at h <;> cases h <;> rfl
  | drw x y n =>
    simp only [exec, execDrw] at h
    split at h <;> cases h
    · exact readV_writeFlag_ne (List.ne_of_not_mem_cons hr) _ _
    · rfl
  | loadRegs x =>
    simp only [exec, execLoadRegs] at h
    split at h <;> cases h
    · exact (readV_loadV s (blockRegs x) r).trans (if_neg hr)
    · rfl
  | ldVxK x =>
    simp only [exec, execLdVxK] at h
    split at h <;> cases h
    · exact readV_writeV_ne (List.ne_of_not_mem_cons hr) _ _
    · rfl
  | ldByte x | addByte x | ldReg x | orReg x | andReg x | xorReg x | rnd x | ldVxDt x =>
    cases h
    exact readV_writeV_ne (List.ne_of_not_mem_cons hr) _ _
  | addReg x | subReg x | shrReg x | subnReg x | shlReg x =>
    cases h
    obtain ⟨hx, hf⟩ : r ≠ x ∧ r ≠ 15 := by simpa [writtenRegs] using hr
    exact readV_writeResultAndFlag_ne hx hf _ _ _
  | _ => cases h; rfl

theorem mem_blockRegs_last (x : Reg) : 15 ∈ blockRegs x ↔ x = 15 := by
  rw [mem_blockRegs, Fin.le_def, Fin.ext_iff]
  have hlast : (15 : Reg).val = 15 := rfl
  omega

/-! ### The instructions that write I, and those that fault for it (R23) -/

theorem exec_i {i : Instr} {s t : State}
    (hi : ∀ (x : Reg) (nnn : Addr12),
      i ≠ .ldI nnn ∧ i ≠ .addI x ∧ i ≠ .ldF x ∧ i ≠ .storeRegs x ∧ i ≠ .loadRegs x)
    (h : exec i s = .next t) : t.i = s.i := by
  cases i with
  | ret => simp only [exec, execRet] at h; split at h <;> cases h <;> rfl
  | call nnn => simp only [exec, execCall] at h; split at h <;> cases h <;> rfl
  | drw x y n => simp only [exec, execDrw] at h; split at h <;> cases h <;> rfl
  | skp x => simp only [exec, execSkp] at h; split at h <;> cases h <;> rfl
  | sknp x => simp only [exec, execSknp] at h; split at h <;> cases h <;> rfl
  | ldVxK x => simp only [exec, execLdVxK] at h; split at h <;> cases h <;> rfl
  | ldB x => simp only [exec, execLdB] at h; split at h <;> cases h <;> rfl
  | ldI | addI | ldF | storeRegs | loadRegs => simp at hi
  | _ => cases h; rfl

theorem exec_outcome_ne_boundsFault {i : Instr} {s t : State}
    (hi : ∀ (x y : Reg) (n : Fin 16),
      i ≠ .ldB x ∧ i ≠ .storeRegs x ∧ i ≠ .loadRegs x ∧ i ≠ .drw x y n ∧ i ≠ .skp x ∧ i ≠ .sknp x)
    (h : exec i s = .next t) : t.outcome ≠ some .boundsFault := by
  cases i with
  | ret => simp only [exec, execRet] at h; split at h <;> cases h <;> simp
  | call nnn => simp only [exec, execCall] at h; split at h <;> cases h <;> simp
  | ldVxK x => simp only [exec, execLdVxK] at h; split at h <;> cases h <;> simp
  | ldB | storeRegs | loadRegs | drw | skp | sknp => simp at hi
  | _ => cases h; simp

end Sys2Proof.Machine

section
open Sys2Proof Sys2Proof.Machine

/-- Settles O23: FX33 and FX55 alone write memory, and another memory in is the same memory out but for the four that
access it. -/
theorem memoryAccessingInstructions : Obligations.MemoryAccessingInstructions := by
  unfold Obligations.MemoryAccessingInstructions
  refine ⟨fun i s t hi h a => by rw [exec_mem hi h], fun i s t m hi hd h => ?_⟩
  exact exec_patch_next (untouchedBy_mem hi hd m) h

/-- Settles O24: the screen is passed through by all but 00E0 and DXYN, and 00E0 overwrites it unread. -/
theorem framebufferAccessingInstructions : Obligations.FramebufferAccessingInstructions := by
  unfold Obligations.FramebufferAccessingInstructions
  refine ⟨fun i s t hc hd h => (exec_screen hc hd h).1, fun i s t fb hc hd h => ?_, fun _ _ => rfl⟩
  obtain ⟨-, hrender⟩ := exec_screen hc hd h
  calc exec i (setScreen fb s.render s)
      = mapNext (setScreen fb s.render) (exec i s) := exec_setScreen hc hd fb s.render s
    _ = .next (setScreen fb s.render t) := by rw [h, mapNext_next]
    _ = .next { t with fb := fb } := by rw [← hrender]; rfl

/-- Settles O26: SP and STACK are passed through by all but 2NNN and 00EE. -/
theorem stackAccessingInstructions : Obligations.StackAccessingInstructions := by
  unfold Obligations.StackAccessingInstructions
  intro i s t n st hr hc h
  obtain ⟨hsp, hstack⟩ := exec_stack hr hc h
  exact ⟨hsp, hstack, exec_patch_next (untouchedBy_stack hr hc n st) h⟩

/-- Settles O27: a timer is passed through by the instructions that do not touch it, and its writer overwrites it
unread. -/
theorem timerAccessingInstructions : Obligations.TimerAccessingInstructions := by
  unfold Obligations.TimerAccessingInstructions
  intro i s t b h
  refine ⟨fun hi => exec_dt hi h, fun hi => exec_st hi h, fun hi => exec_patch_next (untouchedBy_dt hi b) h, ?_,
    fun hi => exec_patch_next (untouchedBy_st hi b) h, ?_⟩
  · rintro x rfl
    exact h
  · rintro x rfl
    exact h

/-- Settles O28: VF is among the registers an instruction may write only as the flag or as the named destination. -/
theorem flagWritingInstructions : Obligations.FlagWritingInstructions := by
  unfold Obligations.FlagWritingInstructions
  intro i s t h hflag hdest
  refine exec_regs h 15 fun hmem => ?_
  cases i <;> simp_all [writtenRegs, mem_blockRegs_last]

/-- Settles O29: five instructions write I, and of those that can be a bounds fault four check addresses from I and two a
key number. -/
theorem indexWritingInstructions : Obligations.IndexWritingInstructions := by
  unfold Obligations.IndexWritingInstructions
  exact fun i s t h => ⟨fun hi => exec_i hi h, fun hi => exec_outcome_ne_boundsFault hi h⟩

end

namespace Sys2Proof.Machine

/-! ### Where an instruction leaves PC (R128) -/

theorem skipIf_pc_cases (c : Bool) (s : State) : (skipIf c s).pc = s.pc ∨ (skipIf c s).pc = s.pc + 2 := by
  cases c
  · exact .inl rfl
  · exact .inr rfl

/-- PC stays, skips, goes back to the instruction, is popped from the stack, or is a jump's target, at most 0xFFF + 0xFF. -/
theorem exec_pc_cases {i : Instr} {s t : State} (h : exec i s = .next t) :
    t.pc = s.pc ∨ t.pc = s.pc + 2 ∨ t.pc = s.pc - 2 ∨ (∃ k : Fin 16, t.pc = s.stack[k.val]) ∨ t.pc.toNat ≤ 0x10FE := by
  have hjump : ∀ n, n ≤ 0x10FE → (trunc16 n).toNat ≤ 0x10FE := fun n hn => (Nat.mod_le n _).trans hn
  cases i with
  | seByte | sneByte | seReg | sneReg =>
    cases h
    exact (skipIf_pc_cases _ s).imp_right .inl
  | skp x =>
    simp only [exec, execSkp] at h
    split at h <;> cases h
    · exact (skipIf_pc_cases _ s).imp_right .inl
    · exact .inl rfl
  | sknp x =>
    simp only [exec, execSknp] at h
    split at h <;> cases h
    · exact (skipIf_pc_cases _ s).imp_right .inl
    · exact .inl rfl
  | ldVxK x =>
    simp only [exec, execLdVxK] at h
    split at h <;> cases h
    · exact .inl rfl
    · exact .inr (.inr (.inl rfl))
  | ret =>
    simp only [exec, execRet] at h
    split at h <;> cases h
    · exact .inl rfl
    · exact .inr (.inr (.inr (.inl ⟨⟨s.sp.val - 1, by omega⟩, rfl⟩)))
  | jp nnn =>
    cases h
    exact .inr (.inr (.inr (.inr (hjump _ (by have := nnn.isLt; omega)))))
  | jpV0 nnn =>
    cases h
    exact .inr (.inr (.inr (.inr (hjump _ (by have := nnn.isLt; have := (readV 0 s).isLt; omega)))))
  | call nnn =>
    simp only [exec, execCall] at h
    split at h <;> cases h
    · exact .inr (.inr (.inr (.inr (hjump _ (by have := nnn.isLt; omega)))))
    · exact .inl rfl
  | drw x y n => simp only [exec, execDrw] at h; split at h <;> cases h <;> exact .inl rfl
  | ldB x => simp only [exec, execLdB] at h; split at h <;> cases h <;> exact .inl rfl
  | storeRegs x => simp only [exec, execStoreRegs] at h; split at h <;> cases h <;> exact .inl rfl
  | loadRegs x => simp only [exec, execLoadRegs] at h; split at h <;> cases h <;> exact .inl (by simp)
  | _ => cases h; exact .inl rfl

/-! ### The invariant (R35) -/

/-- Every instruction keeps the stack entries at most 0x1000, given a PC that is: 2NNN alone writes one, and it is PC. -/
theorem exec_keeps_stack_le {i : Instr} {s t : State} (hpc : s.pc.toNat ≤ 4096)
    (hs : ∀ k : Fin 16, s.stack[k.val].toNat ≤ 4096) (h : exec i s = .next t) (k : Fin 16) :
    t.stack[k.val].toNat ≤ 4096 := by
  cases i with
  | ret => simp only [exec, execRet] at h; split at h <;> cases h <;> exact hs k
  | call nnn =>
    simp only [exec, execCall] at h
    split at h <;> cases h
    · simp only [jumpTo_stack, Vector.getElem_set]
      split
      · exact hpc
      · exact hs k
    · exact hs k
  | _ =>
    obtain ⟨-, hstack⟩ := exec_stack (by simp) (by simp) h
    rw [hstack]
    exact hs k

/-- Every instruction keeps the canonical form of memory. -/
theorem exec_keeps_wf {i : Instr} {s t : State} (hs : Memory.wf s.mem = true) (h : exec i s = .next t) :
    Memory.wf t.mem = true := by
  cases i with
  | ldB x =>
    simp only [exec, execLdB] at h
    split at h <;> cases h
    · exact wf_writeAll hs _
    · exact hs
  | storeRegs x =>
    simp only [exec, execStoreRegs] at h
    split at h <;> cases h
    · exact wf_writeAll hs _
    · exact hs
  | _ => rw [exec_mem (by simp) h]; exact hs

theorem advancePc_pc_le {s : State} (hf : s.pc.toNat + 1 < 4096) : (advancePc s).pc.toNat ≤ 4096 := by
  rw [advancePc_pc_toNat hf]
  omega

theorem step_keeps_inv {s t : State} (hs : StateInv s) (h : step s = .next t) : StateInv t := by
  obtain ⟨hpc, hstack, hmem⟩ := hs
  obtain ⟨-, rfl⟩ | ⟨hf, u, hu, rfl⟩ := step_cases h
  · exact ⟨hpc, hstack, hmem⟩
  · obtain ⟨-, rfl⟩ | ⟨i, -, hi⟩ := executeWord_cases hu
    · exact ⟨postCheck_pc_lt _, by simpa using hstack, by simpa using hmem⟩
    · have hstack' := exec_keeps_stack_le (advancePc_pc_le hf) hstack hi
      have hmem' := exec_keeps_wf (s := advancePc s) hmem hi
      exact ⟨postCheck_pc_lt u, by simpa using hstack', by simpa using hmem'⟩

theorem reset_inv : StateInv State.reset := ⟨by decide, by decide, wf_nil⟩

theorem hostReset_inv (s : State) : StateInv (hostReset s) := reset_inv

theorem hostLoad_inv (source : Option (List Byte)) (s : State) : StateInv (hostLoad source s).1 := by
  cases source with
  | none => exact hostReset_inv s
  | some bytes =>
    simp only [hostLoad]
    split
    · obtain ⟨hpc, hstack, hmem⟩ := hostReset_inv s
      exact ⟨hpc, hstack, wf_writeBytes hmem _ bytes⟩
    · exact hostReset_inv s

theorem perform_step {s t : State} (h : step s = .next t) : perform .step s = .next (t, .outcome t.outcome) := by
  simp only [perform, hostStep, h]

/-- One operation that is no WRITE_STATE answers, and keeps the invariant. -/
theorem perform_keeps_inv {op : HostOp} {s : State} (hop : ∀ ws, op ≠ .writeState ws) (hs : StateInv s) :
    ∃ (t : State) (r : HostReply), perform op s = .next (t, r) ∧ StateInv t := by
  cases op with
  | reset => exact ⟨_, _, rfl, hostReset_inv s⟩
  | load source => exact ⟨_, _, rfl, hostLoad_inv source s⟩
  | step =>
    obtain ⟨t, ht⟩ := step_answers s
    exact ⟨t, _, perform_step ht, step_keeps_inv hs ht⟩
  | writeState ws => exact absurd rfl (hop ws)
  | tick | setKeys | readRender | readFb | sound | readState => exact ⟨_, _, rfl, hs⟩

theorem performAll_keeps_inv {ops : List HostOp} {s : State} (hops : ∀ op ∈ ops, ∀ ws, op ≠ .writeState ws)
    (hs : StateInv s) : ∃ t : State, performAll ops s = .next t ∧ StateInv t := by
  induction ops generalizing s with
  | nil => exact ⟨s, rfl, hs⟩
  | cons op ops ih =>
    obtain ⟨u, r, hu, hinv⟩ := perform_keeps_inv (hops op List.mem_cons_self) hs
    obtain ⟨t, ht, htinv⟩ := ih (fun o ho => hops o (List.mem_cons_of_mem op ho)) hinv
    exact ⟨t, by simp only [performAll, hu, ht], htinv⟩

/-! ### Memory in canonical form (log entry 4) -/

theorem wfAbove_cons_iff {low k : Nat} {c : Byte} {rest : Memory} :
    Memory.wfAbove low ((k, c) :: rest) = true ↔
      low ≤ k ∧ k < 4096 ∧ c ≠ resetByte k ∧ Memory.wfAbove (k + 1) rest = true := by
  simp only [Memory.wfAbove, Bool.and_eq_true, decide_eq_true_eq, and_assoc]

/-- Where two canonical memories read the same, neither lists an address below the other's lowest: the first listed cell
differs from what reset leaves there. -/
theorem head_le_of_read_eq {low low' a b : Nat} {c d : Byte} {rest rest' : Memory}
    (hm : Memory.wfAbove low ((a, c) :: rest) = true) (hk : Memory.wfAbove low' ((b, d) :: rest') = true)
    (h : ∀ x, Memory.read ((a, c) :: rest) x = Memory.read ((b, d) :: rest') x) : b ≤ a := by
  obtain ⟨-, -, hc, -⟩ := wfAbove_cons_iff.mp hm
  obtain ⟨-, hb, hd, hrest⟩ := wfAbove_cons_iff.mp hk
  have hk' : Memory.wfAbove b ((b, d) :: rest') = true := wfAbove_cons_iff.mpr ⟨Nat.le_refl b, hb, hd, hrest⟩
  by_contra hlt
  have ha := h a
  rw [read_cell, if_pos rfl, read_below hk' (Nat.not_le.mp hlt)] at ha
  exact hc ha

/-- A canonical memory with a cell does not read as reset leaves memory. -/
theorem not_read_eq_nil {low a : Nat} {c : Byte} {rest : Memory} (hm : Memory.wfAbove low ((a, c) :: rest) = true)
    (h : ∀ x, Memory.read ((a, c) :: rest) x = Memory.read [] x) : False := by
  obtain ⟨-, -, hc, -⟩ := wfAbove_cons_iff.mp hm
  have ha := h a
  rw [read_cell, if_pos rfl, read_nil] at ha
  exact hc ha

theorem eq_of_read_eq {low low' : Nat} {m k : Memory} (hm : Memory.wfAbove low m = true)
    (hk : Memory.wfAbove low' k = true) (h : ∀ x, Memory.read m x = Memory.read k x) : m = k := by
  induction m generalizing low low' k with
  | nil =>
    cases k with
    | nil => rfl
    | cons q rest' => exact (not_read_eq_nil hk fun x => (h x).symm).elim
  | cons p rest ih =>
    cases k with
    | nil => exact (not_read_eq_nil hm h).elim
    | cons q rest' =>
      obtain ⟨a, c⟩ := p
      obtain ⟨b, d⟩ := q
      obtain rfl : a = b := Nat.le_antisymm (head_le_of_read_eq hk hm fun x => (h x).symm) (head_le_of_read_eq hm hk h)
      obtain ⟨-, -, -, hrest⟩ := wfAbove_cons_iff.mp hm
      obtain ⟨-, -, -, hrest'⟩ := wfAbove_cons_iff.mp hk
      obtain rfl : c = d := by simpa [read_cell] using h a
      have htail : ∀ x, Memory.read rest x = Memory.read rest' x := by
        intro x
        by_cases hx : a = x
        · subst hx
          rw [read_below hrest (Nat.lt_succ_self a), read_below hrest' (Nat.lt_succ_self a)]
        · simpa [read_cell, hx] using h x
      rw [ih hrest hrest' htail]

/-! ### The state after reset (R34) -/

@[simp] theorem read_reset (a : Nat) : Memory.read State.reset.mem a = resetByte a := rfl

@[simp] theorem readV_reset (x : Reg) : readV x State.reset = 0 := Vector.getElem_replicate x.isLt

theorem reset_stack (k : Fin 16) : State.reset.stack[k.val] = 0 := Vector.getElem_replicate k.isLt

theorem keyPressed_reset (k : Nat) : keyPressed State.reset k = false := by
  simp [keyPressed, State.reset]

end Sys2Proof.Machine

section
open Sys2Proof Sys2Proof.Machine

/-- Settles O17: PC lies in memory after the post-execute check, a call pushes at most 0x1000, and every write keeps the
canonical form. -/
theorem stepKeepsInvariant : Obligations.StepKeepsInvariant := by
  unfold Obligations.StepKeepsInvariant
  exact fun _ _ => step_keeps_inv

/-- Settles O18, by induction on the run: one operation that is no WRITE_STATE keeps the invariant. -/
theorem hostOperationsKeepInvariant : Obligations.HostOperationsKeepInvariant := by
  unfold Obligations.HostOperationsKeepInvariant
  exact fun _ _ => performAll_keeps_inv

/-- Settles O19: PC is at most 0x1000 after the fetch, a skip adds two, a popped entry is at most 0x1000. -/
theorem executedPcIsAtMost10FE : Obligations.ExecutedPcIsAtMost10FE := by
  unfold Obligations.ExecutedPcIsAtMost10FE
  rintro s t i ⟨-, hstack, -⟩ hf h
  have hpc : (s.pc + 2).toNat = s.pc.toNat + 2 := advancePc_pc_toNat hf
  have htwo : (2 : Word).toNat = 2 := rfl
  obtain hp | hp | hp | ⟨k, hp⟩ | hp := exec_pc_cases h
  · rw [hp, hpc]; omega
  · rw [hp, BitVec.toNat_add, hpc, htwo]; omega
  · rw [hp, BitVec.add_sub_cancel]; omega
  · rw [hp]; exact (hstack k).trans (by decide)
  · exact hp

/-- Settles O20: the laws of one write. -/
theorem readReturnsLastWrite : Obligations.ReadReturnsLastWrite := by
  unfold Obligations.ReadReturnsLastWrite
  exact fun m a c b hm => ⟨wf_write hm a b, read_write_spec hm a b c, read_nil c⟩

/-- Settles O21, by induction on both lists: the lowest listed addresses are equal, the bytes there, and the rests. -/
theorem canonicalMemoriesAreEqual : Obligations.CanonicalMemoriesAreEqual := by
  unfold Obligations.CanonicalMemoriesAreEqual
  exact fun _ _ => eq_of_read_eq

/-- Settles O15: memory after reset is the reset byte of every address, and R7 keeps the font below 0x200. -/
theorem resetState : Obligations.ResetState := by
  unfold Obligations.ResetState
  refine ⟨rfl, rfl, rfl, rfl, rfl, rfl, readV_reset, reset_stack, pixelAt_replicate_zero, keyPressed_reset, ?_, ?_, ?_,
    rfl, fun _ => rfl⟩
  · exact fun a ha => resetByte_of_le ha
  · exact fun hno a => resetByte_of_no_font hno a
  · intro hfont
    refine ⟨fun k hk => ⟨?_, resetByte_font hfont hk⟩, fun a ha => resetByte_outside_font ha⟩
    have hfits := font_fits hfont
    omega

/-- Settles O16: PC is 0x200, the stack zero, and no cell is listed. -/
theorem invariantHoldsAtReset : Obligations.InvariantHoldsAtReset := by
  unfold Obligations.InvariantHoldsAtReset
  exact reset_inv

end

namespace Sys2Proof.Machine

/-! ### Call and return (R140, R142) -/

theorem exec_call (nnn : Addr12) {s : State} (h : s.sp.val < 16) : exec (.call nnn) s =
    complete (jumpTo nnn.toNat { s with stack := s.stack.set s.sp.val s.pc, sp := ⟨s.sp.val + 1, Nat.succ_lt_succ h⟩ }) :=
  dif_pos h

theorem exec_call_full (nnn : Addr12) {s : State} (h : s.sp.val = 16) :
    exec (.call nnn) s = .next { s with outcome := some .stackOverflow } :=
  dif_neg (h ▸ Nat.lt_irrefl 16)

theorem exec_ret {s : State} {k : Fin 16} (h : s.sp.val = k.val + 1) : exec .ret s =
    complete { s with sp := ⟨k.val, by omega⟩, pc := s.stack[k.val] } := by
  simp only [exec, execRet, h, Nat.add_one_ne_zero, if_false, Nat.add_sub_cancel]

theorem exec_ret_empty {s : State} (h : s.sp.val = 0) :
    exec .ret s = .next { s with outcome := some .stackUnderflow } := if_pos h

/-! ### Keys (R240, R241, R246) -/

theorem exec_skp {x : Reg} {s : State} {k : Fin 16} (h : (readV x s).toNat = k.val) :
    exec (.skp x) s = complete (skipIf s.keys[k.val] s) := by
  simp only [exec, execSkp, h, if_pos k.isLt, keyPressed_val]

theorem exec_sknp {x : Reg} {s : State} {k : Fin 16} (h : (readV x s).toNat = k.val) :
    exec (.sknp x) s = complete (skipIf (!s.keys[k.val]) s) := by
  simp only [exec, execSknp, h, if_pos k.isLt, keyPressed_val]

/-! ### The bits the shifts move (R178, R180) -/

theorem trunc8_half (b : Byte) : trunc8 (b.toNat / 2) = b >>> 1 := by
  have hb : b.toNat < 2 ^ 8 := b.isLt
  apply BitVec.eq_of_toNat_eq
  rw [trunc8_toNat, BitVec.toNat_ushiftRight, Nat.shiftRight_eq_div_pow]
  omega

theorem trunc8_double (b : Byte) : trunc8 (b.toNat * 2) = b <<< 1 := by
  apply BitVec.eq_of_toNat_eq
  rw [trunc8_toNat, BitVec.toNat_shiftLeft, Nat.shiftLeft_eq]

theorem shiftedOutRight_eq (b : Byte) : shiftedOutRight b = decide (b.getLsbD 0 = true) := by
  simp [shiftedOutRight, BitVec.getLsbD, Nat.testBit_zero]

theorem shiftedOutLeft_eq (b : Byte) : shiftedOutLeft b = decide (b.getLsbD 7 = true) := by
  simp [shiftedOutLeft, BitVec.getLsbD, Nat.testBit_eq_decide_div_mod_eq]

end Sys2Proof.Machine

section
open Sys2Proof Sys2Proof.Machine

/-- Settles O31: with room on the stack PC is pushed and NNN, which twelve bits hold, is the new PC; a full stack is
checked before anything is written. -/
theorem callPushesReturnAddress : Obligations.CallPushesReturnAddress := by
  unfold Obligations.CallPushesReturnAddress
  refine fun nnn s => ⟨fun h => ⟨_, exec_call nnn h, ?_, rfl, fun k => ?_, fun _ _ => rfl, rfl, rfl, rfl,
    ⟨rfl, rfl, rfl⟩, fun _ => rfl, rfl, rfl⟩, exec_call_full nnn⟩
  · exact Nat.mod_eq_of_lt (by have := nnn.isLt; omega)
  · simp only [jumpTo_stack, Vector.getElem_set, eq_comm]

/-- Settles O32: the popped entry is the one below SP. -/
theorem returnPopsAddress : Obligations.ReturnPopsAddress := by
  unfold Obligations.ReturnPopsAddress
  exact fun s => ⟨fun k h => ⟨_, exec_ret h, rfl, rfl, rfl, fun _ _ => rfl, rfl, rfl, rfl, ⟨rfl, rfl, rfl⟩,
    fun _ => rfl, rfl, rfl⟩, exec_ret_empty⟩

/-- Settles O33: the entry a return pops is the one the call pushed. -/
theorem returnUndoesCall : Obligations.ReturnUndoesCall := by
  unfold Obligations.ReturnUndoesCall
  intro nnn s t u hsp h husp hustack
  obtain rfl := complete_eq_next.mp ((exec_call nnn hsp).symm.trans h)
  have hk : u.sp.val = (⟨s.sp.val, hsp⟩ : Fin 16).val + 1 := congrArg Fin.val husp
  refine ⟨_, exec_ret hk, rfl, ?_, rfl⟩
  simp [hustack]

/-- Settles O37: each of the three writes VX and no flag, and the bits of OR, AND and XOR are those of the operands. -/
theorem logicWritesOnlyVx : Obligations.LogicWritesOnlyVx := by
  unfold Obligations.LogicWritesOnlyVx
  intro x y s
  refine ⟨?_, ?_, ?_⟩
  · obtain ⟨t, ht, hx, hrest⟩ := complete_writeV x (readV x s ||| readV y s) s
    exact ⟨t, ht, fun k => by rw [hx, BitVec.getLsbD_or], hrest⟩
  · obtain ⟨t, ht, hx, hrest⟩ := complete_writeV x (readV x s &&& readV y s) s
    exact ⟨t, ht, fun k => by rw [hx, BitVec.getLsbD_and], hrest⟩
  · obtain ⟨t, ht, hx, hrest⟩ := complete_writeV x (readV x s ^^^ readV y s) s
    exact ⟨t, ht, fun k => by rw [hx, BitVec.getLsbD_xor], hrest⟩

/-- Settles O40: halving and doubling VY are the shifts, and the flag is the bit that falls out. -/
theorem shiftsMoveVyIntoVx : Obligations.ShiftsMoveVyIntoVx := by
  unfold Obligations.ShiftsMoveVyIntoVx
  intro x y s
  simp only [exec, execShrReg, execShlReg, trunc8_half, trunc8_double, shiftedOutRight_eq, shiftedOutLeft_eq]
  exact ⟨complete_writeResultAndFlag x _ _ s, complete_writeResultAndFlag x _ _ s⟩

/-- Settles O41: CXNN writes VX as any load does, and the draw counter beside it. -/
theorem randomByteIsMasked : Obligations.RandomByteIsMasked := by
  unfold Obligations.RandomByteIsMasked
  intro x nn s
  obtain ⟨t, ht, hx, hrest⟩ := complete_writeV x (Config.randByte s.draws &&& nn) s
  obtain rfl := complete_eq_next.mp ht
  exact ⟨_, rfl, fun k => (congrArg (·.getLsbD k) hx).trans (BitVec.getLsbD_and), rfl, hrest⟩

/-- Settles O43: both write I, which receives the sum modulo 2^16. -/
theorem indexArithmeticWraps : Obligations.IndexArithmeticWraps := by
  unfold Obligations.IndexArithmeticWraps
  exact fun x s => ⟨complete_writeI (s.i.toNat + (readV x s).toNat) s,
    complete_writeI (fontBase + (readV x s).toNat * glyphStride) s⟩

/-- Settles O53: a key number below 16 is a skip on the latch, any other is checked before PC moves. -/
theorem keySkipsReadLatch : Obligations.KeySkipsReadLatch := by
  unfold Obligations.KeySkipsReadLatch
  refine fun x s => ⟨fun k hk => ⟨?_, ?_⟩, fun hle => ⟨if_neg (Nat.not_lt.mpr hle), if_neg (Nat.not_lt.mpr hle)⟩⟩
  · rw [exec_skp hk]
    exact complete_skipIf s.keys[k.val] s
  · rw [exec_sknp hk]
    simpa only [Bool.not_eq_true', ← Bool.not_eq_true, ite_not] using complete_skipIf (!s.keys[k.val]) s

end

namespace Sys2Proof.Machine

/-! ### The three memory transfers (R63, R203, R204, R205) -/

theorem bcdAddrs_within (s : State) : withinMemory (dataAddrs s [0, 1, 2]) = true ↔ s.i.toNat + 2 < 4096 := by
  rw [dataAddrs_within]
  constructor
  · exact fun h => h 2 (by simp)
  · intro h k hk
    have hk' : k ≤ 2 := by simp at hk; omega
    omega

theorem exec_ldB {x : Reg} {s : State} (h : s.i.toNat + 2 < 4096) : exec (.ldB x) s =
    complete { s with mem := Memory.writeAll s.mem ((dataAddrs s [0, 1, 2]).zip (bcdDigits (readV x s))) } :=
  if_pos ((bcdAddrs_within s).mpr h)

theorem exec_ldB_fault {x : Reg} {s : State} (h : 4096 ≤ s.i.toNat + 2) :
    exec (.ldB x) s = .next { s with outcome := some .boundsFault } :=
  if_neg fun hin => Nat.not_lt.mpr h ((bcdAddrs_within s).mp hin)

theorem exec_storeRegs {x : Reg} {s : State} (h : s.i.toNat + x.val < 4096) : exec (.storeRegs x) s =
    complete (writeI (s.i.toNat + x.val + 1) { s with mem := Memory.writeAll s.mem (blockCells x s) }) :=
  if_pos ((blockAddrs_within s x).mpr h)

theorem exec_storeRegs_fault {x : Reg} {s : State} (h : 4096 ≤ s.i.toNat + x.val) :
    exec (.storeRegs x) s = .next { s with outcome := some .boundsFault } :=
  if_neg fun hin => Nat.not_lt.mpr h ((blockAddrs_within s x).mp hin)

theorem exec_loadRegs {x : Reg} {s : State} (h : s.i.toNat + x.val < 4096) : exec (.loadRegs x) s =
    complete (writeI (s.i.toNat + x.val + 1) (loadV s (blockRegs x))) :=
  if_pos ((blockAddrs_within s x).mpr h)

theorem exec_loadRegs_fault {x : Reg} {s : State} (h : 4096 ≤ s.i.toNat + x.val) :
    exec (.loadRegs x) s = .next { s with outcome := some .boundsFault } :=
  if_neg fun hin => Nat.not_lt.mpr h ((blockAddrs_within s x).mp hin)

/-- Three bytes written in a row, and what every address reads then. -/
theorem read_writeAll_three {m : Memory} (hm : Memory.wf m = true) {a : Nat} (ha : a + 2 < 4096) (b0 b1 b2 : Byte)
    (c : Nat) : Memory.read (Memory.writeAll m [(a, b0), (a + 1, b1), (a + 2, b2)]) c =
      if c = a + 2 then b2 else if c = a + 1 then b1 else if c = a then b0 else Memory.read m c := by
  have h0 : a < 4096 := by omega
  have h1 : a + 1 < 4096 := by omega
  have hm1 := wf_write hm a b0
  simp only [Memory.writeAll, List.foldl_cons, List.foldl_nil, read_write_spec (wf_write hm1 (a + 1) b1),
    read_write_spec hm1, read_write_spec hm, h0, h1, ha, and_true]

/-- After a block store each of the addresses from I holds its register. -/
theorem read_blockCells {x : Reg} {s : State} (hm : Memory.wf s.mem = true) (h : s.i.toNat + x.val < 4096) {k : Reg}
    (hk : k ≤ x) : Memory.read (Memory.writeAll s.mem (blockCells x s)) (s.i.toNat + k.val) = readV k s := by
  refine read_writeAll_map hm (blockRegs x) (fun k => dataAddr s k.val) (fun k => readV k s) ?_ ?_
    ((mem_blockRegs x k).mpr hk)
  · intro j _ l _ he
    have hjl : j = l := Fin.ext (Nat.add_left_cancel he)
    rw [hjl]
  · intro j hj
    have hjx := Fin.le_def.mp ((mem_blockRegs x j).mp hj)
    simp only [dataAddr]
    omega

/-- A block store leaves the other addresses. -/
theorem read_blockCells_outside {x : Reg} {s : State} (hm : Memory.wf s.mem = true) {c : Nat}
    (hc : c < s.i.toNat ∨ s.i.toNat + (x.val + 1) ≤ c) :
    Memory.read (Memory.writeAll s.mem (blockCells x s)) c = Memory.read s.mem c := by
  refine read_writeAll_of_not_mem hm _ fun p hp => ?_
  obtain ⟨k, hk, rfl⟩ := List.mem_map.mp hp
  have hkx := Fin.le_def.mp ((mem_blockRegs x k).mp hk)
  simp only [dataAddr]
  omega

/-- I after a block transfer that lies in memory does not wrap. -/
theorem trunc16_toNat_of_lt {n : Nat} (h : n < 65536) : (trunc16 n).toNat = n := Nat.mod_eq_of_lt h

theorem opcodeOfBytes_toNat (hi lo : Byte) : (opcodeOfBytes hi lo).toNat = hi.toNat * 256 + lo.toNat :=
  trunc16_toNat_of_lt (by have := hi.isLt; have := lo.isLt; omega)

end Sys2Proof.Machine

section
open Sys2Proof Sys2Proof.Machine

/-- Settles O44: three writes in a row, and each digit fits a byte. -/
theorem bcdStoresThreeDigits : Obligations.BcdStoresThreeDigits := by
  unfold Obligations.BcdStoresThreeDigits
  intro x s hm h
  have hv : (readV x s).toNat < 2 ^ 8 := (readV x s).isLt
  have hread := read_writeAll_three hm h (trunc8 ((readV x s).toNat / 100)) (trunc8 ((readV x s).toNat / 10 % 10))
    (trunc8 ((readV x s).toNat % 10))
  refine ⟨_, exec_ldB h, ?_, ?_, ?_, fun c hc => ?_, fun _ _ => rfl, ⟨rfl, rfl, rfl, rfl, rfl⟩, rfl, ⟨rfl, rfl, rfl⟩, rfl,
    rfl⟩
  · refine (congrArg BitVec.toNat (hread _)).trans ?_
    rw [if_neg (by omega), if_neg (by omega), if_pos rfl, trunc8_toNat]
    omega
  · refine (congrArg BitVec.toNat (hread _)).trans ?_
    rw [if_neg (by omega), if_pos rfl, trunc8_toNat]
    omega
  · refine (congrArg BitVec.toNat (hread _)).trans ?_
    rw [if_pos rfl, trunc8_toNat]
    omega
  · refine (hread c).trans ?_
    rw [if_neg (by omega), if_neg (by omega), if_neg (by omega)]

/-- Settles O45: a run of writes at distinct addresses, then I past the last of them, at most 0x1000. -/
theorem blockStoreWritesRegisters : Obligations.BlockStoreWritesRegisters := by
  unfold Obligations.BlockStoreWritesRegisters
  exact fun x s hm h => ⟨_, exec_storeRegs h, fun k hk => read_blockCells hm h hk,
    fun c hc => read_blockCells_outside hm hc, trunc16_toNat_of_lt (by omega), fun _ _ => rfl, rfl, rfl, rfl, rfl, rfl,
    ⟨rfl, rfl, rfl⟩, rfl, rfl⟩

/-- Settles O46: the registers up to VX are loaded, each from its own address, and I moves past the last of them. -/
theorem blockLoadReadsRegisters : Obligations.BlockLoadReadsRegisters := by
  unfold Obligations.BlockLoadReadsRegisters
  intro x s h
  refine ⟨_, exec_loadRegs h, fun k => ?_, trunc16_toNat_of_lt (by omega), ?_⟩
  · refine (readV_loadV s (blockRegs x) k).trans ?_
    simp only [mem_blockRegs]
  · simp [RestUnchanged, DevicesUnchanged, MemUnchanged]

/-- Settles O47: the last address is the greatest of those checked before anything is written. -/
theorem transferOutsideMemoryIsBoundsFault : Obligations.TransferOutsideMemoryIsBoundsFault := by
  unfold Obligations.TransferOutsideMemoryIsBoundsFault
  exact fun _ _ => ⟨exec_ldB_fault, exec_storeRegs_fault, exec_loadRegs_fault⟩

/-- Settles O48: the store completed, so it lay in memory, and the fetch reads two of its bytes. -/
theorem storedBytesAreFetched : Obligations.StoredBytesAreFetched := by
  unfold Obligations.StoredBytesAreFetched
  intro x k s t hm h hout hk hpc
  have hkx := Fin.lt_def.mp hk
  by_cases hin : s.i.toNat + x.val < 4096
  · have hnext : k.val + 1 < 16 := by omega
    have hhi := read_blockCells hm hin (k := k) (Fin.le_of_lt hk)
    have hlo := read_blockCells hm hin (k := ⟨k.val + 1, hnext⟩) (Fin.le_def.mpr hkx)
    have hmem : t.mem = Memory.writeAll s.mem (blockCells x s) := by
      rw [← complete_eq_next.mp ((exec_storeRegs hin).symm.trans h)]
      rfl
    have hsome : s.v[k.val + 1]?.getD 0 = readV ⟨k.val + 1, hnext⟩ s := by simp [hnext, readV]
    rw [fetchWord, opcodeOfBytes_toNat, hmem, hpc, hhi, Nat.add_assoc, hlo, hsome]
    rfl
  · rw [← next_inj.mp ((exec_storeRegs_fault (Nat.not_lt.mp hin)).symm.trans h)] at hout
    cases hout

end

namespace Sys2Proof.Machine

/-! ### Drawing (R221, R222, R223) -/

/-- The bounds check of DXYN: the address of every row on the screen lies in memory (R221, D10). -/
def DrawnRowsFit (y : Reg) (n : Nat) (s : State) : Prop :=
  ∀ r, r < n → (readV y s).toNat % 32 + r < 32 → s.i.toNat + r < 4096

theorem drawnRows_within (y : Reg) (n : Nat) (s : State) :
    withinMemory (dataAddrs s (drawnRows (originY y s) n)) = true ↔ DrawnRowsFit y n s := by
  simp only [dataAddrs_within, mem_drawnRows, originY, Config.screenH, and_imp, DrawnRowsFit]

/-- The sprite bit that DXYN puts on column px, row py. -/
def drawnBit (x y : Reg) (n : Nat) (s : State) (px py : Nat) : Bool :=
  spriteBitAt s ((readV x s).toNat % 64) ((readV y s).toNat % 32) n px py

/-- The framebuffer DXYN leaves, and whether it met a set pixel. -/
def drawn (x y : Reg) (n : Nat) (s : State) : Framebuffer × Bool :=
  (spritePixels s (originX x s) (originY y s) n).foldl xorPixel (s.fb, false)

/-- The pixels DXYN toggles are those of the screen on which a set sprite bit falls. -/
theorem mem_drawnPixels {x y : Reg} {n : Nat} {s : State} (p : Nat × Nat) :
    p ∈ spritePixels s (originX x s) (originY y s) n ↔ p.1 < 64 ∧ p.2 < 32 ∧ drawnBit x y n s p.1 p.2 = true :=
  mem_spritePixels s (originX x s) (originY y s) n p

theorem drawn_spec (x y : Reg) (n : Nat) (s : State) :
    (∀ px py, px < 64 → py < 32 →
      pixelAt (drawn x y n s).1 px py = (pixelAt s.fb px py ^^ drawnBit x y n s px py)) ∧
    ((drawn x y n s).2 = true ↔
      ∃ px py, px < 64 ∧ py < 32 ∧ pixelAt s.fb px py = true ∧ drawnBit x y n s px py = true) := by
  obtain ⟨hpixel, hhit⟩ := foldl_xorPixel (spritePixels s (originX x s) (originY y s) n) (nodup_spritePixels _ _ _ _)
    (fun p hp => ⟨(mem_drawnPixels p).mp hp |>.1, (mem_drawnPixels p).mp hp |>.2.1⟩) s.fb false
  refine ⟨fun px py hx hy => ?_, ?_⟩
  · refine (hpixel px py).trans ?_
    simp [mem_drawnPixels, hx, hy]
  · rw [drawn, hhit, Bool.false_or, decide_eq_true_eq]
    constructor
    · rintro ⟨p, hp, hset⟩
      obtain ⟨hx, hy, hbit⟩ := (mem_drawnPixels p).mp hp
      exact ⟨p.1, p.2, hx, hy, hset, hbit⟩
    · rintro ⟨px, py, hx, hy, hset, hbit⟩
      exact ⟨(px, py), (mem_drawnPixels (px, py)).mpr ⟨hx, hy, hbit⟩, hset⟩

theorem exec_drw {x y : Reg} {n : Fin 16} {s : State} (h : DrawnRowsFit y n.val s) : exec (.drw x y n) s =
    complete (writeFlag (drawn x y n.val s).2 (setScreen (drawn x y n.val s).1 true s)) :=
  if_pos ((drawnRows_within y n.val s).mpr h)

theorem exec_drw_fault {x y : Reg} {n : Fin 16} {s : State} (h : ¬ DrawnRowsFit y n.val s) :
    exec (.drw x y n) s = .next { s with outcome := some .boundsFault } :=
  if_neg fun hin => h ((drawnRows_within y n.val s).mp hin)

theorem flagByte_eq_one_iff (c : Bool) : flagByte c = 1 ↔ c = true := by cases c <;> decide

theorem flagByte_eq_one_or_zero (c : Bool) : flagByte c = 1 ∨ flagByte c = 0 := by cases c <;> decide

/-- The sprite bits come from memory at I alone. -/
theorem spriteBitAt_congr {s t : State} (hi : t.i = s.i) (hm : MemUnchanged s t) (x0 y0 n px py : Nat) :
    spriteBitAt t x0 y0 n px py = spriteBitAt s x0 y0 n px py := by
  rw [spriteBitAt, hi, hm, spriteBitAt]

end Sys2Proof.Machine

section
open Sys2Proof Sys2Proof.Machine

/-- Settles O50: each pixel a set sprite bit falls on is toggled once, and the flag is whether one of them was set. -/
theorem drawXorsSpriteAndReportsCollision : Obligations.DrawXorsSpriteAndReportsCollision := by
  unfold Obligations.DrawXorsSpriteAndReportsCollision
  intro x y n s h
  obtain ⟨hpixel, hhit⟩ := drawn_spec x y n.val s
  obtain ⟨t, ht, hv⟩ : ∃ t, exec (.drw x y n) s = .next t ∧
      t = { writeFlag (drawn x y n.val s).2 (setScreen (drawn x y n.val s).1 true s) with outcome := none } :=
    ⟨_, exec_drw h, rfl⟩
  have hvf : readV 15 t = flagByte (drawn x y n.val s).2 := hv ▸ readV_writeFlag _ _
  refine ⟨t, ht, ?_⟩
  rw [hvf]
  subst hv
  exact ⟨hpixel, flagByte_eq_one_or_zero _, (flagByte_eq_one_iff _).trans hhit, rfl,
    fun r hr => readV_writeFlag_ne (List.ne_of_not_mem_cons hr) _ _, ⟨rfl, rfl, rfl, rfl, rfl⟩, rfl, rfl, fun _ => rfl, rfl, rfl⟩

/-- Settles O51: the row outside memory fails the bounds check. -/
theorem drawOutsideMemoryIsBoundsFault : Obligations.DrawOutsideMemoryIsBoundsFault := by
  unfold Obligations.DrawOutsideMemoryIsBoundsFault
  exact fun x y n s r hr hy hout => exec_drw_fault fun hfit => Nat.not_lt.mpr hout (hfit r hr hy)

/-- Settles O52: X and Y are not F, so the second draw toggles the pixels of the first, and those it finds set are those
the first draw set. -/
theorem drawingTwiceRestoresScreen : Obligations.DrawingTwiceRestoresScreen := by
  unfold Obligations.DrawingTwiceRestoresScreen
  intro x y n s t hx hy h hout
  have hfit : DrawnRowsFit y n.val s := by
    by_contra hno
    rw [← next_inj.mp ((exec_drw_fault hno).symm.trans h)] at hout
    cases hout
  obtain ⟨t', ht', hpixel, -, -, -, hregs, ⟨hi, -⟩, -, -, hmem, -⟩ := drawXorsSpriteAndReportsCollision x y n s hfit
  obtain rfl : t' = t := next_inj.mp (ht'.symm.trans h)
  have hvx : readV x t' = readV x s := hregs x (by simpa using hx)
  have hvy : readV y t' = readV y s := hregs y (by simpa using hy)
  have hfit' : DrawnRowsFit y n.val t' := by
    unfold DrawnRowsFit
    rw [hvy, hi]
    exact hfit
  obtain ⟨u, hu, hpixel', -, hflag, -, -, -, -, -, -, -, huout⟩ := drawXorsSpriteAndReportsCollision x y n t' hfit'
  simp only [hvx, hvy, spriteBitAt_congr hi hmem] at hpixel' hflag
  refine ⟨u, hu, huout, framebuffer_ext fun px py hpx hpy => ?_, hflag.trans ?_⟩
  · rw [hpixel' px py hpx hpy, hpixel px py hpx hpy, Bool.xor_assoc, Bool.xor_self, Bool.xor_false]
  · refine exists_congr fun px => exists_congr fun py => and_congr_right fun hpx => and_congr_right fun hpy => ?_
    rw [hpixel px py hpx hpy]
    cases pixelAt s.fb px py <;> simp

end

namespace Sys2Proof.Machine

/-! ### The host's ports (R274, R277, R278) -/

theorem readFb_length (s : State) : (readFb s).length = 2048 := by simp [readFb]

/-- READ_FB is row by row: element 64 y + x is column x of row y (D12). -/
theorem readFb_getElem? (s : State) {x y : Nat} (hx : x < 64) (hy : y < 32) :
    (readFb s)[64 * y + x]? = some (if pixelAt s.fb x y = true then 1 else 0) := by
  have hcol : (64 * y + x) % 64 = x := by omega
  have hrow : (64 * y + x) / 64 = y := by omega
  rw [readFb, List.getElem?_map, List.getElem?_range (by omega), Option.map_some, hcol, hrow, Bool.toNat, Bool.cond_eq_ite]

/-- The snapshot and the draw counter are the whole state but for the last outcome. -/
theorem eq_setOutcome_of_readState_eq {s t : State} (h : readState s = readState t) (hd : s.draws = t.draws) :
    s = setOutcome s.outcome t := by
  cases s
  cases t
  simp only [readState, Snapshot.mk.injEq] at h
  obtain ⟨rfl, rfl, rfl, rfl, rfl, rfl, rfl, rfl, rfl, rfl, rfl⟩ := h
  cases hd
  rfl

/-! ### WRITE_STATE (R278) -/

theorem hostWriteState_append (ws us : List StateWrite) (s : State) :
    hostWriteState (ws ++ us) s = hostWriteState us (hostWriteState ws s) := List.foldl_append

/-- No element write touches the model's own fields (log entries 1 and 2). -/
theorem writeElement_own (s : State) (w : StateWrite) :
    (writeElement s w).outcome = s.outcome ∧ (writeElement s w).draws = s.draws := by
  cases w <;> exact ⟨rfl, rfl⟩

theorem hostWriteState_own (ws : List StateWrite) (s : State) :
    (hostWriteState ws s).outcome = s.outcome ∧ (hostWriteState ws s).draws = s.draws := by
  induction ws generalizing s with
  | nil => exact ⟨rfl, rfl⟩
  | cons w ws ih =>
    obtain ⟨ho, hd⟩ := ih (writeElement s w)
    obtain ⟨ho', hd'⟩ := writeElement_own s w
    exact ⟨ho.trans ho', hd.trans hd'⟩

theorem wf_hostWriteState {s : State} (h : Memory.wf s.mem = true) (ws : List StateWrite) :
    Memory.wf (hostWriteState ws s).mem = true := by
  induction ws generalizing s with
  | nil => exact h
  | cons w ws ih => exact ih (wf_writeElement h w)

/-- An array element after one was replaced. -/
theorem getElem_set_val {α : Type} {n : Nat} (v : Vector α n) (k j : Fin n) (a : α) :
    (v.set k.val a)[j.val] = if j = k then a else v[j.val] := by
  simp only [Vector.getElem_set, Fin.ext_iff, eq_comm]

theorem pixelAt_setPixel (fb : Framebuffer) (x : Fin 64) (y : Fin 32) (b : Bool) (px py : Nat) :
    pixelAt (setPixel fb x.val y.val b) px py = if px = x.val ∧ py = y.val then b else pixelAt fb px py := by
  unfold setPixel
  split
  next hsame =>
    split
    next hat => rw [hat.1, hat.2, hsame]
    next => rfl
  next hdiff =>
    rw [pixelAt_flipPixel fb x.isLt y.isLt]
    split
    next hat => rw [hat.1, hat.2]; simpa using Bool.eq_not.mpr hdiff
    next hno => simp [hno]

/-! ### LOAD (R302, R303) -/

theorem hostLoad_ok {bytes : List Byte} (h : bytes.length ≤ 3584) (s : State) :
    hostLoad (some bytes) s = ({ hostReset s with mem := Memory.writeBytes [] 0x200 bytes }, .ok) := if_pos h

theorem hostLoad_tooLarge {bytes : List Byte} (h : 3584 < bytes.length) (s : State) :
    hostLoad (some bytes) s = (hostReset s, .tooLarge) := if_neg (Nat.not_le.mpr h)

theorem perform_load {source : Option (List Byte)} {s t : State} {r : LoadResult} (h : hostLoad source s = (t, r)) :
    perform (.load source) s = .next (t, .loaded r) := by simp only [perform, h]

end Sys2Proof.Machine

section
open Sys2Proof Sys2Proof.Machine

/-- Settles O58: the ports are what they are defined to be, and what a snapshot does not show no step reads. -/
theorem hostPortsReadAndSetState : Obligations.HostPortsReadAndSetState := by
  unfold Obligations.HostPortsReadAndSetState
  refine ⟨fun _ _ => rfl, fun s => ⟨readFb s, rfl, readFb_length s, fun x y hx hy => readFb_getElem? s hx hy⟩,
    fun s t => ⟨rfl, rfl, rfl, rfl, rfl, rfl, rfl, rfl, rfl, rfl, rfl, rfl, fun h hd => ?_⟩⟩
  rw [eq_setOutcome_of_readState_eq h hd, step_setOutcome]

/-- Settles O59: a list of writes is carried out element by element, each a replacement of its own element. -/
theorem writeStateReadsBack : Obligations.WriteStateReadsBack := by
  unfold Obligations.WriteStateReadsBack
  intro s ws us hm
  obtain ⟨hout, hdraws⟩ := hostWriteState_own ws s
  refine ⟨rfl, hostWriteState_append ws us s, rfl, wf_hostWriteState hm ws, hout, hdraws, fun _ => ⟨rfl, rfl⟩,
    fun _ => rfl, fun _ => ⟨rfl, rfl⟩, fun _ => rfl, fun x b => ⟨_, rfl, fun r => getElem_set_val s.v x r b⟩,
    fun k w => ⟨_, rfl, fun j => getElem_set_val s.stack k j w⟩, fun k b => ⟨_, rfl, fun j => getElem_set_val s.keys k j b⟩,
    fun x y b => ⟨_, rfl, fun px py _ _ => pixelAt_setPixel s.fb x y b px py⟩, fun a b => ⟨_, rfl, fun c => ?_⟩⟩
  rw [read_write_spec hm]
  simp only [a.isLt, and_true]

/-- Settles O60: memory is reset memory with a run of bytes written from 0x200, which 3584 bytes fill. -/
theorem loadResetsAndCopiesProgram : Obligations.LoadResetsAndCopiesProgram := by
  unfold Obligations.LoadResetsAndCopiesProgram
  refine fun s => ⟨rfl, fun bytes => ⟨fun h => perform_load (hostLoad_tooLarge h s), fun h => ?_⟩⟩
  have hread := read_writeBytes wf_nil 0x200 bytes (by omega)
  refine ⟨_, perform_load (hostLoad_ok h s), rfl, wf_writeBytes wf_nil 0x200 bytes, fun k hk => ?_, fun a ha => ?_⟩
  · refine (congrArg some (hread (0x200 + k))).trans ?_
    rw [if_neg (by omega), Nat.add_sub_cancel_left, List.getElem?_eq_getElem hk, Option.getD_some]
  · refine (hread a).trans ?_
    obtain ha | ha := ha
    · exact if_pos ha
    · rw [if_neg (by omega), List.getElem?_eq_none (by omega), Option.getD_none]
      rfl

end
